-- ==== Sys2Proof/Word.lean ====
section
/-! DEFINITION. The data widths of BHX4-CORE (rule R12 of `00_scope.md`): a byte, a 6-bit symbol, and the four
operand widths of rule R81. Every value is unsigned; there is no signed quantity (R12). -/

namespace Sys2Proof

/-- A byte: 8 bits, unsigned (R12). -/
abbrev Byte := BitVec 8

/-- A symbol: a 6-bit unsigned value (R12). -/
abbrev Symbol := BitVec 6

/-- The width of a CRC value, 16 bits (R7). -/
abbrev CrcWord := BitVec 16

end Sys2Proof
end

