-- ==== Sys2Proof/Config.lean ====
section
/-! DEFINITION. What an implementation of BHX4-CORE fixes (rules R7 to R11 of `00_scope.md`): the literal constants the
source fixes, and the three parameters the spec leaves to the implementation. The parameters are a record, so that a
claim about every state is a claim about every implementation (log 3); there is no free value in this hardware. -/

namespace Sys2Proof

/-- `PK_FLUSH` (R10): what `PK.FLUSH` emits for a trailing partial group. -/
inductive PkFlush where
  /-- The carried bits, padded with zero bits, as one last symbol. -/
  | zeroPad
  /-- Nothing: the carried bits are lost. -/
  | none
  deriving DecidableEq, Repr

/-- The parameters of rules R8, R10 and R9. -/
structure Params where
  /-- `RE_MIN_RUN`, a natural number in 2..256 (R8). -/
  reMinRun : Nat
  /-- `PK_FLUSH` (R10). -/
  pkFlush : PkFlush
  /-- `HAS_FPV` (R9): the companion unit FPV is present. -/
  hasFpv : Bool
  deriving DecidableEq, Repr

/-- The values the spec chooses for this hardware: `RE_MIN_RUN = 3`, `PK_FLUSH = ZERO_PAD`, `HAS_FPV = true`
(R8, R10, R9; log 4). -/
def Params.chosen : Params := { reMinRun := 3, pkFlush := .zeroPad, hasFpv := true }

namespace Config

/-- The CRC polynomial (R7). -/
def crcPoly : CrcWord := 0x1021#16

/-- The RLE marker byte (R7, R171). -/
def marker : Byte := 0x90#8

/-- Symbols per line of text (R7, R145). -/
def lineLength : Nat := 64

/-- The longest fork length a 32-bit length field holds (R201, R248). -/
def maxFork : BitVec 64 := 0xFFFFFFFF#64

/-- The longest legal name, in bytes (R7, R201). -/
def maxName : Nat := 255

/-- CR, `0x0D` (R7). -/
def cr : Byte := 0x0D#8

/-- LF, `0x0A` (R7). -/
def lf : Byte := 0x0A#8

/-- The colon, `0x3A` (R147). -/
def colon : Byte := 0x3A#8

end Config

end Sys2Proof
end

