-- ==== Sys2Proof/Syntax.lean ====
section
/-! DEFINITION. The operation set of BHX4-CORE: one constructor per row of `spec/opcode_table.json`, in the order of
rule R84 of `30_encoding.md`. An operation has at most one operand (R83), of the width its format gives (R81). -/

namespace Sys2Proof

/-- The 34 operations of rule R84; the constructors' names are the mnemonics in lower camel case. -/
inductive Instr where
  /-- `NOP` (R110). -/
  | nop
  /-- `CORE.RST` (R111). -/
  | coreRst
  /-- `CTL.WR imm8` (R112). -/
  | ctlWr (imm : BitVec 8)
  /-- `CRC.CLR` (R125). -/
  | crcClr
  /-- `CRC.BYTE imm8` (R126). -/
  | crcByte (imm : BitVec 8)
  /-- `CRC.FLUSH` (R127). -/
  | crcFlush
  /-- `CRC.VFY imm16` (R128). -/
  | crcVfy (imm : BitVec 16)
  /-- `PK.CLR` (R146). -/
  | pkClr
  /-- `PK.BEGIN` (R147). -/
  | pkBegin
  /-- `PK.BYTE imm8` (R149). -/
  | pkByte (imm : BitVec 8)
  /-- `PK.FLUSH` (R150). -/
  | pkFlush
  /-- `PK.END` (R151). -/
  | pkEnd
  /-- `UP.CLR` (R160). -/
  | upClr
  /-- `UP.CHAR imm8` (R161). -/
  | upChar (imm : BitVec 8)
  /-- `UP.END` (R163). -/
  | upEnd
  /-- `RD.CLR` (R170). -/
  | rdClr
  /-- `RD.BYTE imm8` (R173). -/
  | rdByte (imm : BitVec 8)
  /-- `RD.END` (R174). -/
  | rdEnd
  /-- `RE.CLR` (R180). -/
  | reClr
  /-- `RE.BYTE imm8` (R183). -/
  | reByte (imm : BitVec 8)
  /-- `RE.END` (R184). -/
  | reEnd
  /-- `FA.CLR` (R193). -/
  | faClr
  /-- `FA.NCLR` (R194). -/
  | faNclr
  /-- `FA.NPUSH imm8` (R195). -/
  | faNpush (imm : BitVec 8)
  /-- `FA.TYPE imm32` (R196). -/
  | faType (imm : BitVec 32)
  /-- `FA.AUTH imm32` (R197). -/
  | faAuth (imm : BitVec 32)
  /-- `FA.FLAGS imm16` (R198). -/
  | faFlags (imm : BitVec 16)
  /-- `FA.DLEN imm64` (R199). -/
  | faDlen (imm : BitVec 64)
  /-- `FA.RLEN imm64` (R200). -/
  | faRlen (imm : BitVec 64)
  /-- `FA.HDR` (R201). -/
  | faHdr
  /-- `FA.PUSH imm8` (R203). -/
  | faPush (imm : BitVec 8)
  /-- `FP.CLR` (R215). -/
  | fpClr
  /-- `FP.PARSE` (R216). -/
  | fpParse
  /-- `VF.RUN` (R218). -/
  | vfRun
  deriving DecidableEq, Repr

/-- The five command formats of rule R81, by the width of the operand in bytes. -/
inductive Format where
  | c0 | c1 | c2 | c4 | c8
  deriving DecidableEq, Repr

end Sys2Proof
end

