-- ==== Sys2Proof/WellFormed.lean ====
section
/-! DEFINITION. What makes the parameters legal (rules R8 to R10 of `00_scope.md`) and which operations an
implementation has (R9). Every operand is a bit vector of its format's width, so no operand can be ill-formed. -/

namespace Sys2Proof

/-- `RE_MIN_RUN` is in 2..256 (R8); the other parameters are legal at every value. -/
def Params.wellFormed (p : Params) : Bool := 2 ≤ p.reMinRun && p.reMinRun ≤ 256

/-- The operation belongs to the companion unit FPV (R82: unit 7). -/
def Instr.isFpv : Instr → Bool
  | .fpClr | .fpParse | .vfRun => true
  | .nop | .coreRst | .ctlWr _ | .crcClr | .crcByte _ | .crcFlush | .crcVfy _ | .pkClr | .pkBegin | .pkByte _
  | .pkFlush | .pkEnd | .upClr | .upChar _ | .upEnd | .rdClr | .rdByte _ | .rdEnd | .reClr | .reByte _ | .reEnd
  | .faClr | .faNclr | .faNpush _ | .faType _ | .faAuth _ | .faFlags _ | .faDlen _ | .faRlen _ | .faHdr
  | .faPush _ => false

/-- The operation exists in an implementation with parameters `p`: the three FPV operations exist only when `HAS_FPV`
is true, and are reserved otherwise (R9, R85). -/
def Instr.wellFormed (p : Params) (i : Instr) : Bool := p.hasFpv || !i.isFpv

end Sys2Proof
end

