-- ==== Sys2Proof/Decode.lean ====
section
/-! DEFINITION. The command encoding of `30_encoding.md` (rules R80 to R85): big-endian operand assembly (R83), the
decoder, total on byte strings (R80), the encoder written from the same table (R84), and the two readings of a word of
`spec/opcode_table.json` that the host asks for (log 14). -/

namespace Sys2Proof

/-! ### Byte order (R13, R65, R67) -/

/-- `from_be(bytes)` of rule R13: the number whose most significant byte comes first. -/
def fromBE (bytes : List Byte) : Nat := bytes.foldl (fun acc b => acc * 256 + b.toNat) 0

/-- The `n` low bytes of `v`, most significant first: `be16` and `be32` of rule R13 are `n = 2` and `n = 4`. -/
def beBytes : Nat → Nat → List Byte
  | 0, _ => []
  | n + 1, v => BitVec.ofNat 8 (v / 256 ^ n) :: beBytes n v

/-! ### The decoder -/

/-- What the decoder finds at the front of the bytes not yet consumed (R80). -/
inductive Decoded where
  /-- (a) a legal operation with its operand, and the remaining bytes. -/
  | op (i : Instr) (rest : List Byte)
  /-- (b) a reserved opcode byte, exactly one byte consumed (R85). -/
  | reserved (opcode : Byte) (rest : List Byte)
  /-- (c) no complete command yet: no byte, or a legal opcode with fewer operand bytes than its format requires. -/
  | incomplete
  deriving DecidableEq, Repr

/-- The number of operand bytes of a format (R81). -/
def Format.operandBytes : Format → Nat
  | .c0 => 0
  | .c1 => 1
  | .c2 => 2
  | .c4 => 4
  | .c8 => 8

/-- The operation with the operand that `w / 8` bytes give, most significant first (R83). -/
def withOperand (w : Nat) (op : BitVec w → Instr) (bytes : List Byte) : Decoded :=
  if bytes.length < w / 8 then .incomplete
  else .op (op (BitVec.ofNat w (fromBE (bytes.take (w / 8))))) (bytes.drop (w / 8))

/-- The opcode map of rule R84, applied to an opcode byte and the bytes after it; every other byte value is reserved
(R85). `0x70` to `0x72` decode to the FPV operations whether or not the unit is present: their meanings raise
`IllegalOp` where it is absent, as R215, R216 and R218 say (log 5). -/
def decodeOpcode (opcode : Byte) (bytes : List Byte) : Decoded :=
  match opcode.toNat with
  | 0x00 => .op .nop bytes
  | 0x01 => .op .coreRst bytes
  | 0x02 => withOperand 8 .ctlWr bytes
  | 0x10 => .op .crcClr bytes
  | 0x11 => withOperand 8 .crcByte bytes
  | 0x12 => .op .crcFlush bytes
  | 0x13 => withOperand 16 .crcVfy bytes
  | 0x20 => .op .pkClr bytes
  | 0x21 => .op .pkBegin bytes
  | 0x22 => withOperand 8 .pkByte bytes
  | 0x23 => .op .pkFlush bytes
  | 0x24 => .op .pkEnd bytes
  | 0x30 => .op .upClr bytes
  | 0x31 => withOperand 8 .upChar bytes
  | 0x32 => .op .upEnd bytes
  | 0x40 => .op .rdClr bytes
  | 0x41 => withOperand 8 .rdByte bytes
  | 0x42 => .op .rdEnd bytes
  | 0x50 => .op .reClr bytes
  | 0x51 => withOperand 8 .reByte bytes
  | 0x52 => .op .reEnd bytes
  | 0x60 => .op .faClr bytes
  | 0x61 => .op .faNclr bytes
  | 0x62 => withOperand 8 .faNpush bytes
  | 0x63 => withOperand 32 .faType bytes
  | 0x64 => withOperand 32 .faAuth bytes
  | 0x65 => withOperand 16 .faFlags bytes
  | 0x66 => withOperand 64 .faDlen bytes
  | 0x67 => withOperand 64 .faRlen bytes
  | 0x68 => .op .faHdr bytes
  | 0x69 => withOperand 8 .faPush bytes
  | 0x70 => .op .fpClr bytes
  | 0x71 => .op .fpParse bytes
  | 0x72 => .op .vfRun bytes
  | _ => .reserved opcode bytes

/-- The decoder: a total function on byte strings (R80). -/
def decode : List Byte → Decoded
  | [] => .incomplete
  | opcode :: bytes => decodeOpcode opcode bytes

/-! ### The encoder -/

/-- The opcode byte of an operation (R84). -/
def Instr.opcode : Instr → Byte
  | .nop => 0x00#8
  | .coreRst => 0x01#8
  | .ctlWr _ => 0x02#8
  | .crcClr => 0x10#8
  | .crcByte _ => 0x11#8
  | .crcFlush => 0x12#8
  | .crcVfy _ => 0x13#8
  | .pkClr => 0x20#8
  | .pkBegin => 0x21#8
  | .pkByte _ => 0x22#8
  | .pkFlush => 0x23#8
  | .pkEnd => 0x24#8
  | .upClr => 0x30#8
  | .upChar _ => 0x31#8
  | .upEnd => 0x32#8
  | .rdClr => 0x40#8
  | .rdByte _ => 0x41#8
  | .rdEnd => 0x42#8
  | .reClr => 0x50#8
  | .reByte _ => 0x51#8
  | .reEnd => 0x52#8
  | .faClr => 0x60#8
  | .faNclr => 0x61#8
  | .faNpush _ => 0x62#8
  | .faType _ => 0x63#8
  | .faAuth _ => 0x64#8
  | .faFlags _ => 0x65#8
  | .faDlen _ => 0x66#8
  | .faRlen _ => 0x67#8
  | .faHdr => 0x68#8
  | .faPush _ => 0x69#8
  | .fpClr => 0x70#8
  | .fpParse => 0x71#8
  | .vfRun => 0x72#8

/-- The format of an operation (R84). -/
def Instr.format : Instr → Format
  | .nop | .coreRst | .crcClr | .crcFlush | .pkClr | .pkBegin | .pkFlush | .pkEnd | .upClr | .upEnd | .rdClr | .rdEnd
  | .reClr | .reEnd | .faClr | .faNclr | .faHdr | .fpClr | .fpParse | .vfRun => .c0
  | .ctlWr _ | .crcByte _ | .pkByte _ | .upChar _ | .rdByte _ | .reByte _ | .faNpush _ | .faPush _ => .c1
  | .crcVfy _ | .faFlags _ => .c2
  | .faType _ | .faAuth _ => .c4
  | .faDlen _ | .faRlen _ => .c8

/-- The operand as a number; 0 for an operation without one. -/
def Instr.operand : Instr → Nat
  | .nop | .coreRst | .crcClr | .crcFlush | .pkClr | .pkBegin | .pkFlush | .pkEnd | .upClr | .upEnd | .rdClr | .rdEnd
  | .reClr | .reEnd | .faClr | .faNclr | .faHdr | .fpClr | .fpParse | .vfRun => 0
  | .ctlWr v | .crcByte v | .pkByte v | .upChar v | .rdByte v | .reByte v | .faNpush v | .faPush v => v.toNat
  | .crcVfy v | .faFlags v => v.toNat
  | .faType v | .faAuth v => v.toNat
  | .faDlen v | .faRlen v => v.toNat

/-- The command bytes of an operation: its opcode byte, then its operand bytes, most significant first (R80, R83). -/
def encode (i : Instr) : List Byte := i.opcode :: beBytes i.format.operandBytes i.operand

/-- The command bytes of a sequence of operations, in issue order (R68: each starts where the previous one ended). -/
def encodeAll (is : List Instr) : List Byte := is.flatMap encode

/-! ### A word of the opcode table -/

/-- The bytes of a table word: byte `k` is bits `8k+7 .. 8k` of `w` below `2 ^ nbits`, the first byte of the command
being the word's least significant one; nine bytes, the longest command. -/
def tableBytes (nbits w : Nat) : List Byte :=
  (List.range 9).map fun k => BitVec.ofNat 8 (w % 2 ^ nbits / 256 ^ k)

/-- The bytes of the one command that a table word starts with: as many as its format requires, one for a reserved
opcode (R80, R85). -/
def tableCommand (nbits w : Nat) : List Byte :=
  match decode (tableBytes nbits w) with
  | .op i _ => (tableBytes nbits w).take (1 + i.format.operandBytes)
  | .reserved _ _ => (tableBytes nbits w).take 1
  | .incomplete => []

/-- The operation the decoder reads from a word of `spec/opcode_table.json`; none for a reserved opcode. -/
def decodeTableWord (nbits w : Nat) : Option Instr :=
  match decode (tableCommand nbits w) with
  | .op i _ => some i
  | .reserved _ _ => none
  | .incomplete => none

end Sys2Proof
end

