-- ==== Sys2Proof/Machine/State.lean ====
section
/-! DEFINITION. The state of one instance of BHX4-CORE as plain data: the registers and streams of rule R34
(`10_state.md`), the command bytes not yet consumed (log 1) and the implementation's parameters (log 3); and its value
after reset (R34, R270). -/

namespace Sys2Proof.Machine

/-- The machine stops with a fault: never. Every fault of the spec (R240) is a NEXT state, reached by fault entry
(R250, `Machine/Ops.lean`), and every operation completes (R284), so this type has no constructor; safe (log 9). -/
inductive Fault : Type
  deriving DecidableEq, Repr

/-- The machine has no meaning for an operation. -/
inductive Refusal where
  /-- An operation whose meaning is not written; raised by an arm of `exec`. Safe: the model stops. No arm raises it in
  this model. -/
  | notModelled (mnemonic : String)
  deriving DecidableEq, Repr

/-- `CTL` (R22): the three link bits. Bits 7:3 are hard-wired to 0 and so are not stored (log 10). -/
structure CtlReg where
  /-- `L_FA_RE`, bit 0: frame bytes go to the RLE encoder instead of `FRM`. -/
  lFaRe : Bool
  /-- `L_RE_PK`, bit 1: RLE-encoded bytes go to the packer instead of `RLE`. -/
  lRePk : Bool
  /-- `L_UP_RD`, bit 2: unpacked bytes go to the RLE decoder instead of `PKD`. -/
  lUpRd : Bool
  deriving DecidableEq, Repr

/-- `ST` (R23): `FAULT` (bit 0), `CAUSE` (bits 4:1), `VOK` (bit 5). Bits 7:6 read as 0 and so are not stored (log 10). -/
structure StReg where
  fault : Bool
  cause : BitVec 4
  vok : Bool
  deriving DecidableEq, Repr

/-- The packer's registers (R25). -/
structure PkRegs where
  /-- `PK.ST`, 2 bits. -/
  st : BitVec 2
  /-- `PK.CARRY`, 6 bits, already placed where the next symbol needs them. -/
  carry : BitVec 6
  /-- `PK.COL`, 7 bits, the symbols emitted on the current line. -/
  col : BitVec 7
  deriving DecidableEq, Repr

/-- The unpacker's registers (R26). -/
structure UpRegs where
  /-- `UP.ST`, 2 bits. -/
  st : BitVec 2
  /-- `UP.CARRY`, 8 bits, the partial output byte. -/
  carry : BitVec 8
  deriving DecidableEq, Repr

/-- The RLE decoder's registers (R27). -/
structure RdRegs where
  /-- `RD.HAS`: the previous byte was an unconsumed marker. -/
  has : Bool
  /-- `RD.LAST`: the last byte output as a literal. -/
  last : Byte
  deriving DecidableEq, Repr

/-- The RLE encoder's registers (R28). -/
structure ReRegs where
  /-- `RE.HAVE`: a run is pending. -/
  haveRun : Bool
  /-- `RE.CUR`: its byte. -/
  cur : Byte
  /-- `RE.CNT`: its length. -/
  cnt : BitVec 8
  deriving DecidableEq, Repr

/-- The phase `FA.PH`, 2 bits (R29). -/
inductive Phase where
  /-- `CFG = 0`. -/
  | cfg
  /-- `DATA = 1`. -/
  | data
  /-- `RSRC = 2`. -/
  | rsrc
  /-- `DONE = 3`. -/
  | done
  deriving DecidableEq, Repr

/-- The frame assembler's registers (R29). -/
structure FaRegs where
  /-- `FA.NAME[0..254]`. -/
  name : Vector Byte 255
  /-- `FA.NLEN`, 9 bits; 256 means that more than 255 bytes were pushed. -/
  nlen : BitVec 9
  /-- `FA.TYPE`, first byte in bits 31:24. -/
  type : BitVec 32
  /-- `FA.AUTH`, first byte in bits 31:24. -/
  auth : BitVec 32
  /-- `FA.FLAGS`, first byte in bits 15:8. -/
  flags : BitVec 16
  /-- `FA.DLEN`, `LENW = 64` bits. -/
  dlen : BitVec 64
  /-- `FA.RLEN`, `LENW = 64` bits. -/
  rlen : BitVec 64
  /-- `FA.PH`. -/
  ph : Phase
  /-- `FA.REM`, the bytes still to come in the open fork. -/
  rem : BitVec 32
  deriving DecidableEq, Repr

/-- The view registers `V.*` (R30). The offsets are natural numbers without a width bound (R11). -/
structure ViewRegs where
  valid : Bool
  nlen : BitVec 8
  type : BitVec 32
  auth : BitVec 32
  flags : BitVec 16
  dlen : BitVec 32
  rlen : BitVec 32
  hcrc : BitVec 16
  doff : Nat
  roff : Nat
  dcrc : BitVec 16
  rcrc : BitVec 16
  dcrcp : Bool
  rcrcp : Bool
  deriving DecidableEq, Repr

/-- The whole state of one instance (R33), with two fields that are the model's own: `params` (log 3) and `port`
(log 1). -/
structure State where
  /-- The implementation's parameters; no operation writes them (log 3). -/
  params : Params
  /-- The command bytes issued by the host and not yet consumed, first byte first (R80; log 1). -/
  port : List Byte
  /-- `CTL`. -/
  ctl : CtlReg
  /-- `ST`. -/
  st : StReg
  /-- `CRC.R` (R24). -/
  crc : CrcWord
  /-- `PK.*`. -/
  pk : PkRegs
  /-- `UP.*`. -/
  up : UpRegs
  /-- `RD.*`. -/
  rd : RdRegs
  /-- `RE.*`. -/
  re : ReRegs
  /-- `FA.*`. -/
  fa : FaRegs
  /-- `V.*`. -/
  v : ViewRegs
  /-- Stream `FRM`: frame bytes (R31). -/
  frm : List Byte
  /-- Stream `RLE`: RLE-encoded bytes (R31). -/
  rle : List Byte
  /-- Stream `TXT`: characters (R31). -/
  txt : List Byte
  /-- Stream `PKD`: unpacked bytes (R31). -/
  pkd : List Byte
  /-- Stream `RAW`: expanded bytes, the buffer the parser and the verifier read (R31). -/
  raw : List Byte
  deriving DecidableEq, Repr

/-- The default name `"Untitled.hqx"` (R7, R29). -/
def defaultName : List Byte :=
  [0x55#8, 0x6E#8, 0x74#8, 0x69#8, 0x74#8, 0x6C#8, 0x65#8, 0x64#8, 0x2E#8, 0x68#8, 0x71#8, 0x78#8]

/-- The name buffer after reset: the default name, then 243 zero bytes (R29, R34). -/
def NameBuffer.reset : Vector Byte 255 :=
  ⟨⟨defaultName ++ List.replicate 243 0#8⟩, by
    rw [List.size_toArray, List.length_append, List.length_replicate]; rfl⟩

/-- `CTL` after reset: no links (R34). -/
def CtlReg.reset : CtlReg := { lFaRe := false, lRePk := false, lUpRd := false }

/-- `ST` after reset: `0x00` (R34). -/
def StReg.reset : StReg := { fault := false, cause := 0#4, vok := false }

/-- `PK.*` after reset and after `PK.CLR` (R34, R146). -/
def PkRegs.reset : PkRegs := { st := 0#2, carry := 0#6, col := 0#7 }

/-- `UP.*` after reset and after `UP.CLR` (R34, R160). -/
def UpRegs.reset : UpRegs := { st := 0#2, carry := 0#8 }

/-- `RD.*` after reset and after `RD.CLR` (R34, R170). -/
def RdRegs.reset : RdRegs := { has := false, last := 0x00#8 }

/-- `RE.*` after reset and after `RE.CLR` (R34, R180). -/
def ReRegs.reset : ReRegs := { haveRun := false, cur := 0#8, cnt := 0#8 }

/-- `FA.*` after reset and after `FA.CLR`: the source's defaults (R29, R34, R193). -/
def FaRegs.reset : FaRegs :=
  { name := NameBuffer.reset, nlen := 12#9, type := 0#32, auth := 0#32, flags := 0#16, dlen := 0#64, rlen := 0#64,
    ph := .cfg, rem := 0#32 }

/-- `V.*` after reset and after `FP.CLR`: all 0 (R30, R34, R215). -/
def ViewRegs.reset : ViewRegs :=
  { valid := false, nlen := 0#8, type := 0#32, auth := 0#32, flags := 0#16, dlen := 0#32, rlen := 0#32, hcrc := 0#16,
    doff := 0, roff := 0, dcrc := 0#16, rcrc := 0#16, dcrcp := false, rcrcp := false }

/-- The machine right after power-on or `CORE.RST` (R34, R270), with the parameters the spec chooses (log 4) and nothing
issued on the command port (log 1). -/
def State.reset : State :=
  { params := Params.chosen, port := [], ctl := CtlReg.reset, st := StReg.reset, crc := 0x0000#16,
    pk := PkRegs.reset, up := UpRegs.reset, rd := RdRegs.reset, re := ReRegs.reset, fa := FaRegs.reset,
    v := ViewRegs.reset, frm := [], rle := [], txt := [], pkd := [], raw := [] }

end Sys2Proof.Machine
end

