-- ==== Sys2Proof/Machine/Ops.lean ====
section
/-! DEFINITION. The named operations over registers and streams: one writer per register group, one appender per stream
(rule R31 of `10_state.md`: a stream is append-only), fault entry (R250 of `60_exceptions.md`), the one exit from the
faulted condition (R252, R111), and the issue of an operation (R251). -/

namespace Sys2Proof.Machine

/-! ### Register writes: `U.X <- v` (R14) -/

/-- Write the command bytes not yet consumed (log 1). -/
def State.setPort (s : State) (x : List Byte) : State := { s with port := x }
/-- Write `CTL`. -/
def State.setCtl (s : State) (x : CtlReg) : State := { s with ctl := x }
/-- Write `ST`. -/
def State.setSt (s : State) (x : StReg) : State := { s with st := x }
/-- Write `CRC.R`. -/
def State.setCrc (s : State) (x : CrcWord) : State := { s with crc := x }
/-- Write `PK.*`. -/
def State.setPk (s : State) (x : PkRegs) : State := { s with pk := x }
/-- Write `UP.*`. -/
def State.setUp (s : State) (x : UpRegs) : State := { s with up := x }
/-- Write `RD.*`. -/
def State.setRd (s : State) (x : RdRegs) : State := { s with rd := x }
/-- Write `RE.*`. -/
def State.setRe (s : State) (x : ReRegs) : State := { s with re := x }
/-- Write `FA.*`. -/
def State.setFa (s : State) (x : FaRegs) : State := { s with fa := x }
/-- Write `V.*`. -/
def State.setV (s : State) (x : ViewRegs) : State := { s with v := x }

/-! ### Streams: `S.append` and `S <- []` (R14, R31) -/

/-- Replace `FRM`. -/
def State.setFrm (s : State) (x : List Byte) : State := { s with frm := x }
/-- Replace `RLE`. -/
def State.setRle (s : State) (x : List Byte) : State := { s with rle := x }
/-- Replace `TXT`. -/
def State.setTxt (s : State) (x : List Byte) : State := { s with txt := x }
/-- Replace `PKD`. -/
def State.setPkd (s : State) (x : List Byte) : State := { s with pkd := x }
/-- Replace `RAW`. -/
def State.setRaw (s : State) (x : List Byte) : State := { s with raw := x }

/-- Append bytes at the end of `FRM`. -/
def State.appendFrm (s : State) (x : List Byte) : State := s.setFrm (s.frm ++ x)
/-- Append bytes at the end of `RLE`. -/
def State.appendRle (s : State) (x : List Byte) : State := s.setRle (s.rle ++ x)
/-- Append bytes at the end of `TXT`. -/
def State.appendTxt (s : State) (x : List Byte) : State := s.setTxt (s.txt ++ x)
/-- Append bytes at the end of `PKD`. -/
def State.appendPkd (s : State) (x : List Byte) : State := s.setPkd (s.pkd ++ x)
/-- Append bytes at the end of `RAW`. -/
def State.appendRaw (s : State) (x : List Byte) : State := s.setRaw (s.raw ++ x)

/-- All five streams emptied, as fault entry does (R250). -/
def State.clearStreams (s : State) : State := { s with frm := [], rle := [], txt := [], pkd := [], raw := [] }

/-! ### Taking a fault, and the exit (R240, R241, R250 to R252) -/

/-- The nine causes of rule R241. -/
inductive Cause where
  | badFormat
  | badRunLengthEncoding
  | crcHeader
  | crcData
  | crcResource
  | fileNameTooLong
  | dataTooLarge
  | resourceTooLarge
  | illegalOp
  deriving DecidableEq, Repr

/-- The cause codes of rule R241. -/
def Cause.code : Cause → BitVec 4
  | .badFormat => 1#4
  | .badRunLengthEncoding => 2#4
  | .crcHeader => 3#4
  | .crcData => 4#4
  | .crcResource => 5#4
  | .fileNameTooLong => 6#4
  | .dataTooLarge => 7#4
  | .resourceTooLarge => 8#4
  | .illegalOp => 9#4

/-- Fault entry (R250), the last action of a faulting operation (R16): `ST.FAULT` and `ST.CAUSE` are written, the five
streams are emptied, nothing else changes. `raise <Name>` of the pseudocode is this, from the state reached there. -/
def raise (c : Cause) (s : State) : State :=
  (s.setSt { s.st with fault := true, cause := c.code }).clearStreams

/-- The effect of `CORE.RST` (R111), the only exit from the faulted condition (R252): every register and stream takes
its reset value (R34). The command bytes still on the port are the host's (R21) and the parameters are not state (R33):
both stay (log 1, log 3). -/
def coreReset (s : State) : State := { State.reset with params := s.params, port := s.port }

/-! ### Issuing an operation -/

/-- An operation with effect `body` is issued: while `ST.FAULT = 1` it changes nothing and raises nothing (R251), else
it has its effect, which always completes (R284). -/
def issue (s : State) (body : State → State) : Host.Outcome State Fault Refusal :=
  .next (if s.st.fault then s else body s)

/-- The effect of an operation that is legal only when `legal` holds, and otherwise raises `IllegalOp` before any other
effect (R249). -/
def whenLegal (legal : Bool) (s : State) (body : State → State) : State :=
  if legal then body s else raise .illegalOp s

end Sys2Proof.Machine
end

