-- ==== Sys2Proof/Machine/Operands.lean ====
section
/-! DEFINITION. What operations read besides registers: the operand of `CTL.WR` (rule R112), the alphabet tables and
`classify`, which reads the operand of `UP.CHAR` (`42_alphabet.md`), and ranges and big-endian fields of `RAW` (R14,
R280). -/

namespace Sys2Proof.Machine

/-! ### The operand of `CTL.WR` -/

/-- `CTL` as `CTL.WR` writes it: bits 2:0 of the operand, bits 7:3 ignored (R22, R112). -/
def ctlOfOperand (imm : BitVec 8) : CtlReg :=
  { lFaRe := imm.getLsbD 0, lRePk := imm.getLsbD 1, lUpRd := imm.getLsbD 2 }

/-! ### The alphabet (R32, R135 to R138) -/

/-- The 64 entries of `ALPHA`, in symbol order (R135). -/
def alphaTable : List Byte :=
  [0x21#8, 0x22#8, 0x23#8, 0x24#8, 0x25#8, 0x26#8, 0x27#8, 0x28#8, 0x29#8, 0x2A#8, 0x2B#8, 0x2C#8, 0x2D#8] ++
  [0x30#8, 0x31#8, 0x32#8, 0x33#8, 0x34#8, 0x35#8, 0x36#8] ++
  [0x38#8, 0x39#8] ++
  [0x40#8, 0x41#8, 0x42#8, 0x43#8, 0x44#8, 0x45#8, 0x46#8, 0x47#8, 0x48#8, 0x49#8, 0x4A#8, 0x4B#8, 0x4C#8, 0x4D#8,
    0x4E#8] ++
  [0x50#8, 0x51#8, 0x52#8, 0x53#8, 0x54#8, 0x55#8, 0x56#8] ++
  [0x58#8, 0x59#8, 0x5A#8, 0x5B#8] ++
  [0x60#8, 0x61#8, 0x62#8, 0x63#8, 0x64#8, 0x65#8, 0x66#8] ++
  [0x68#8, 0x69#8, 0x6A#8, 0x6B#8, 0x6C#8, 0x6D#8] ++
  [0x70#8, 0x71#8, 0x72#8]

/-- `ALPHA[s]` (R135). The table has an entry for every symbol (`Laws/Alphabet.lean`), so the default is never read. -/
def alpha (s : Symbol) : Byte := alphaTable.getD s.toNat 0#8

/-- `INV[c]` (R136): the symbol whose character is `c`, `none` for the other 192 byte values. -/
def inv (c : Byte) : Option Symbol := (alphaTable.idxOf? c).map (BitVec.ofNat 6)

/-- The three answers of `classify` (R137). -/
inductive CharClass where
  | skip
  | sym (s : Symbol)
  | invalid
  deriving DecidableEq, Repr

/-- `classify(c)`, its tests in the order of rule R137: CR, LF and `0xFF` are skipped, an alphabet character is its
symbol, everything else is invalid. -/
def classify (c : Byte) : CharClass :=
  if c = Config.cr ∨ c = Config.lf ∨ c = 0xFF#8 then .skip
  else match inv c with
    | some s => .sym s
    | none => .invalid

/-! ### Ranges of `RAW` -/

/-- `B[a .. b)` (R14): the bytes at offsets `a <= i < min(b, len(B))`; out-of-range offsets select none (R280). -/
def slice (bytes : List Byte) (a b : Nat) : List Byte := (bytes.take b).drop a

/-- The big-endian field of `n` bytes at offset `o`: `from_be(B[o .. o+n))` (R13, R65). -/
def fieldBE (bytes : List Byte) (o n : Nat) : Nat := fromBE (slice bytes o (o + n))

end Sys2Proof.Machine
end

