-- ==== Sys2Proof/Machine/Flags.lean ====
section
/-! DEFINITION. The control and status registers as the host reads them (rules R22, R23 of `10_state.md`), and the one
flag an operation computes, `ST.VOK` (R128). There is no other flag (R23). -/

namespace Sys2Proof.Machine

/-- `CTL` as 8 bits (R22): `L_FA_RE` bit 0, `L_RE_PK` bit 1, `L_UP_RD` bit 2, bits 7:3 zero. -/
def State.ctlByte (s : State) : BitVec 8 :=
  0#5 ++ BitVec.ofBool s.ctl.lUpRd ++ BitVec.ofBool s.ctl.lRePk ++ BitVec.ofBool s.ctl.lFaRe

/-- `ST` as 8 bits (R23): `FAULT` bit 0, `CAUSE` bits 4:1, `VOK` bit 5, bits 7:6 zero. -/
def State.stByte (s : State) : BitVec 8 :=
  0#2 ++ BitVec.ofBool s.st.vok ++ s.st.cause ++ BitVec.ofBool s.st.fault

/-- `FA.PH` as 2 bits (R29). -/
def Phase.bits : Phase → BitVec 2
  | .cfg => 0#2
  | .data => 1#2
  | .rsrc => 2#2
  | .done => 3#2

/-- `ST.VOK <- 1 if ok else 0` (R128). -/
def State.setVok (s : State) (ok : Bool) : State := s.setSt { s.st with vok := ok }

end Sys2Proof.Machine
end

