-- ==== Sys2Proof/Machine/Crc.lean ====
section
/-! DEFINITION. The CRC engine (`41_crc.md`): the datapath of rules R121 to R124 and the operations R125 to R128. -/

namespace Sys2Proof.Machine

/-- The bit step `crc_bit(r, b)` (R121): sample bit 15, shift left with `b` entering at bit 0, XOR the polynomial if the
sampled bit was 1. -/
def crcBit (r : CrcWord) (b : Bool) : CrcWord :=
  if r.getLsbD 15 then ((r <<< 1) ||| (BitVec.ofBool b).setWidth 16) ^^^ Config.crcPoly
  else (r <<< 1) ||| (BitVec.ofBool b).setWidth 16

/-- The bits of a byte, bit 7 first (R66). -/
def bitsMSB (b : Byte) : List Bool := [7, 6, 5, 4, 3, 2, 1, 0].map b.getLsbD

/-- The byte step `crc_byte(r, v)` (R122): eight bit steps, bit 7 first. -/
def crcByte (r : CrcWord) (v : Byte) : CrcWord := (bitsMSB v).foldl crcBit r

/-- `crc_flush(r)` (R123): two zero bytes. -/
def crcFlush (r : CrcWord) : CrcWord := crcByte (crcByte r 0x00#8) 0x00#8

/-- `crc16(bytes)` (R124): the left fold of `crc_byte` from `0x0000`. -/
def crc16 (bytes : List Byte) : CrcWord := bytes.foldl crcByte 0x0000#16

/-- The CRC that a frame stores for a message, `crc_flush(crc16(m))` (R124, R192). -/
def storedCrc (m : List Byte) : CrcWord := crcFlush (crc16 m)

/-- The predicate `verifyCrc(bytes, expected)` (R129). -/
def verifyCrc (bytes : List Byte) (expected : CrcWord) : Bool := storedCrc bytes == expected

/-- `CRC.CLR` (R125): `CRC.R <- 0x0000`. -/
def execCrcClr (s : State) : Host.Outcome State Fault Refusal := issue s fun s => s.setCrc 0x0000#16

/-- `CRC.BYTE imm8` (R126): `CRC.R <- crc_byte(CRC.R, imm8)`. -/
def execCrcByte (imm : BitVec 8) (s : State) : Host.Outcome State Fault Refusal :=
  issue s fun s => s.setCrc (crcByte s.crc imm)

/-- `CRC.FLUSH` (R127): `CRC.R <- crc_flush(CRC.R)`. -/
def execCrcFlush (s : State) : Host.Outcome State Fault Refusal := issue s fun s => s.setCrc (crcFlush s.crc)

/-- `CRC.VFY imm16` (R128): flush, then `ST.VOK` says whether the flushed value is the operand. It never faults. -/
def execCrcVfy (imm : BitVec 16) (s : State) : Host.Outcome State Fault Refusal :=
  issue s fun s => (s.setCrc (crcFlush s.crc)).setVok (crcFlush s.crc == imm)

end Sys2Proof.Machine
end

