-- ==== Sys2Proof/Machine/Packer.lean ====
section
/-! DEFINITION. The 8-to-6 bit packer (`43_packer.md`): the procedures R145 and R148, the operations R146, R147 and R149
to R151. -/

namespace Sys2Proof.Machine

/-- `pk_sym(s)` (R145): append the character, count it, and wrap after the 64th symbol of a line. -/
def pkSym (s : State) (y : Symbol) : State :=
  if s.pk.col + 1 = 64#7 then
    (s.appendTxt [alpha y, Config.cr, Config.lf]).setPk { s.pk with col := 0#7 }
  else (s.appendTxt [alpha y]).setPk { s.pk with col := s.pk.col + 1 }

/-- Write `PK.CARRY` and `PK.ST`. -/
def State.setPkCycle (s : State) (carry : BitVec 6) (st : BitVec 2) : State :=
  s.setPk { s.pk with carry := carry, st := st }

/-- `pk_byte(b)` (R148): the cycle of three bytes to four symbols. The last branch is `PK.ST = 2`; the value 3 is
unreachable and takes it too, as the pseudocode's `else` does (log 6). -/
def pkByte (s : State) (b : Byte) : State :=
  if s.pk.st = 0#2 then
    (pkSym s ((b >>> 2).setWidth 6)).setPkCycle (((b &&& 0x03#8) <<< 4).setWidth 6) 1#2
  else if s.pk.st = 1#2 then
    (pkSym s (s.pk.carry ||| (b >>> 4).setWidth 6)).setPkCycle (((b &&& 0x0F#8) <<< 2).setWidth 6) 2#2
  else
    (pkSym (pkSym s (s.pk.carry ||| (b >>> 6).setWidth 6)) ((b &&& 0x3F#8).setWidth 6)).setPkCycle 0#6 0#2

/-- The effect of `PK.FLUSH` (R150) for either value of `PK_FLUSH`. -/
def pkFlush (s : State) : State :=
  if s.pk.st ≠ 0#2 ∧ s.params.pkFlush = .zeroPad then (pkSym s s.pk.carry).setPkCycle 0#6 0#2
  else s.setPkCycle 0#6 0#2

/-- The file marker's 47 bytes: the marker line and two LF bytes (R147). -/
def fileMarker : List Byte :=
  [0x28#8, 0x54#8, 0x68#8, 0x69#8, 0x73#8, 0x20#8, 0x66#8, 0x69#8, 0x6C#8, 0x65#8, 0x20#8, 0x6D#8, 0x75#8, 0x73#8,
    0x74#8, 0x20#8, 0x62#8, 0x65#8, 0x20#8, 0x63#8, 0x6F#8, 0x6E#8, 0x76#8, 0x65#8, 0x72#8, 0x74#8, 0x65#8, 0x64#8,
    0x20#8, 0x77#8, 0x69#8, 0x74#8, 0x68#8, 0x20#8, 0x42#8, 0x69#8, 0x6E#8, 0x48#8, 0x65#8, 0x78#8, 0x20#8, 0x34#8,
    0x2E#8, 0x30#8, 0x29#8, 0x0A#8, 0x0A#8]

/-- `PK.CLR` (R146): the packer's registers and `TXT` as after reset; carried bits are discarded. -/
def execPkClr (s : State) : Host.Outcome State Fault Refusal := issue s fun s => (s.setPk PkRegs.reset).setTxt []

/-- `PK.BEGIN` (R147): the file marker and one colon; no register changes. -/
def execPkBegin (s : State) : Host.Outcome State Fault Refusal :=
  issue s fun s => s.appendTxt (fileMarker ++ [Config.colon])

/-- `PK.BYTE imm8` (R149): `pk_byte(imm8)`. -/
def execPkByte (imm : BitVec 8) (s : State) : Host.Outcome State Fault Refusal := issue s fun s => pkByte s imm

/-- `PK.FLUSH` (R150). -/
def execPkFlush (s : State) : Host.Outcome State Fault Refusal := issue s pkFlush

/-- `PK.END` (R151): `PK.FLUSH`, then colon, CR, LF; `PK.COL` is not reset. -/
def execPkEnd (s : State) : Host.Outcome State Fault Refusal :=
  issue s fun s => (pkFlush s).appendTxt [Config.colon, Config.cr, Config.lf]

end Sys2Proof.Machine
end

