-- ==== Sys2Proof/Machine/RleEncoder.lean ====
section
/-! DEFINITION. The RLE encoder (`46_rle_encoder.md`): the link R63, the procedures R181 and R182 and the operations
R180, R183, R184. -/

namespace Sys2Proof.Machine

/-- `re_emit(b)` (R63): to the packer when `CTL.L_RE_PK = 1`, else to `RLE`. -/
def reEmit (s : State) (b : Byte) : State := if s.ctl.lRePk then pkByte s b else s.appendRle [b]

/-- `re_lit(v)` (R181): the byte, and `0x00` after it when it is the marker ("the marker escapes itself"). -/
def reLit (s : State) (v : Byte) : State :=
  if v = Config.marker then reEmit (reEmit s v) 0x00#8 else reEmit s v

/-- `repeat n times: re_lit(v)` (R181). -/
def reLits (v : Byte) : Nat → State → State
  | 0, s => s
  | n + 1, s => reLits v n (reLit s v)

/-- `re_run(v, n)` (R181): byte, marker, count for a run of at least `RE_MIN_RUN`, else `n` literals. -/
def reRun (s : State) (v : Byte) (n : BitVec 8) : State :=
  if s.params.reMinRun ≤ n.toNat then reEmit (reEmit (reLit s v) Config.marker) n
  else reLits v n.toNat s

/-- `re_byte(b)` (R182): collect equal bytes, up to 255; emit the pending run when the byte changes or the count is
full. -/
def reByte (s : State) (b : Byte) : State :=
  if s.re.haveRun = false then s.setRe { haveRun := true, cur := b, cnt := 1#8 }
  else if b = s.re.cur ∧ s.re.cnt < 255#8 then s.setRe { s.re with cnt := s.re.cnt + 1 }
  else (reRun s s.re.cur s.re.cnt).setRe { s.re with cur := b, cnt := 1#8 }

/-- `RE.CLR` (R180): the encoder's registers and `RLE` as after reset; a pending run is discarded. -/
def execReClr (s : State) : Host.Outcome State Fault Refusal := issue s fun s => (s.setRe ReRegs.reset).setRle []

/-- `RE.BYTE imm8` (R183): `re_byte(imm8)`. -/
def execReByte (imm : BitVec 8) (s : State) : Host.Outcome State Fault Refusal := issue s fun s => reByte s imm

/-- `RE.END` (R184): the pending run is emitted, the registers are cleared, `RLE` is kept. -/
def execReEnd (s : State) : Host.Outcome State Fault Refusal :=
  issue s fun s =>
    (if s.re.haveRun then reRun s s.re.cur s.re.cnt else s).setRe { haveRun := false, cur := 0#8, cnt := 0#8 }

end Sys2Proof.Machine
end

