-- ==== Sys2Proof/Machine/FrameAssembler.lean ====
section
/-! DEFINITION. The frame assembler (`47_frame_assembler.md`): the link R62, the header R201, the procedure R202 and the
operations R193 to R203. -/

namespace Sys2Proof.Machine

/-- `fa_emit(b)` (R62): to the RLE encoder when `CTL.L_FA_RE = 1`, else to `FRM`. -/
def faEmit (s : State) (b : Byte) : State := if s.ctl.lFaRe then reByte s b else s.appendFrm [b]

/-- `fa_emit` of each byte in order. -/
def faEmitAll (s : State) (bytes : List Byte) : State := bytes.foldl faEmit s

/-- `be16` of a CRC value (R13): `[r[15:8], r[7:0]]`. -/
def crcBytes (r : CrcWord) : List Byte := beBytes 2 r.toNat

/-- Write `FA.PH` and `FA.REM`. -/
def State.setFaFork (s : State) (ph : Phase) (rem : BitVec 32) : State := s.setFa { s.fa with ph := ph, rem := rem }

/-- `fa_next(RSRC)` (R202): open the resource fork, or pass over an empty one with its zero CRC field. -/
def faNextRsrc (s : State) : State :=
  if s.fa.rlen = 0#64 then (faEmitAll (s.setCrc 0x0000#16) [0x00#8, 0x00#8]).setFaFork .done 0#32
  else (s.setCrc 0x0000#16).setFaFork .rsrc (s.fa.rlen.setWidth 32)

/-- `fa_next(DATA)` (R202): open the data fork, or pass over an empty one with its zero CRC field and go on to the
resource fork. -/
def faNextData (s : State) : State :=
  if s.fa.dlen = 0#64 then faNextRsrc (faEmitAll (s.setCrc 0x0000#16) [0x00#8, 0x00#8])
  else (s.setCrc 0x0000#16).setFaFork .data (s.fa.dlen.setWidth 32)

/-- The header bytes before the CRC field, `H` of rule R201: `FA.NLEN + 20` bytes. -/
def faHeader (f : FaRegs) : List Byte :=
  [f.nlen.setWidth 8] ++ f.name.toList.take f.nlen.toNat ++ [0x00#8] ++
    beBytes 4 f.type.toNat ++ beBytes 4 f.auth.toNat ++ beBytes 2 f.flags.toNat ++
    beBytes 4 (f.dlen.setWidth 32).toNat ++ beBytes 4 (f.rlen.setWidth 32).toNat

/-- The effect of a configuration operation (R194 to R200): it writes `FA.*` in phase `CFG` and raises `IllegalOp`
outside it. -/
def faConfigure (s : State) (update : FaRegs → FaRegs) : State :=
  whenLegal (s.fa.ph = .cfg) s fun s => s.setFa (update s.fa)

/-- `FA.NPUSH` on the registers (R195): the name byte is stored while there are fewer than 255, and `FA.NLEN` becomes 256
after that. -/
def faNamePush (b : Byte) (f : FaRegs) : FaRegs :=
  if f.nlen < 255#9 then { f with name := f.name.setIfInBounds f.nlen.toNat b, nlen := f.nlen + 1 }
  else { f with nlen := 256#9 }

/-- The header with its CRC is emitted and the data fork opened: `FA.HDR` after its checks (R201). -/
def faEmitHeader (s : State) : State :=
  faNextData (faEmitAll (s.setCrc (storedCrc (faHeader s.fa)))
    (faHeader s.fa ++ crcBytes (storedCrc (faHeader s.fa))))

/-- The end of the open fork in `FA.PUSH` (R203): flush, emit the fork's CRC, and go on. -/
def faCloseFork (s : State) : State :=
  let t := faEmitAll (s.setCrc (crcFlush s.crc)) (crcBytes (crcFlush s.crc))
  if s.fa.ph = .data then faNextRsrc t else t.setFa { t.fa with ph := .done }

/-- `FA.PUSH` in phase `DATA` or `RSRC` (R203): emit the byte, take it into the CRC, count it, and close the fork when it
was the last one. -/
def faPushByte (s : State) (b : Byte) : State :=
  let t := (faEmit s b).setCrc (crcByte s.crc b)
  let t := t.setFa { t.fa with rem := t.fa.rem - 1 }
  if t.fa.rem = 0#32 then faCloseFork t else t

/-- `FA.CLR` (R193): every `FA.*` register takes its reset value and `FRM` is emptied; legal in every phase. -/
def execFaClr (s : State) : Host.Outcome State Fault Refusal := issue s fun s => (s.setFa FaRegs.reset).setFrm []

/-- `FA.NCLR` (R194): `FA.NLEN <- 0`; the name's bytes stay. -/
def execFaNclr (s : State) : Host.Outcome State Fault Refusal :=
  issue s fun s => faConfigure s fun f => { f with nlen := 0#9 }

/-- `FA.NPUSH imm8` (R195). -/
def execFaNpush (imm : BitVec 8) (s : State) : Host.Outcome State Fault Refusal :=
  issue s fun s => faConfigure s (faNamePush imm)

/-- `FA.TYPE imm32` (R196). -/
def execFaType (imm : BitVec 32) (s : State) : Host.Outcome State Fault Refusal :=
  issue s fun s => faConfigure s fun f => { f with type := imm }

/-- `FA.AUTH imm32` (R197). -/
def execFaAuth (imm : BitVec 32) (s : State) : Host.Outcome State Fault Refusal :=
  issue s fun s => faConfigure s fun f => { f with auth := imm }

/-- `FA.FLAGS imm16` (R198). -/
def execFaFlags (imm : BitVec 16) (s : State) : Host.Outcome State Fault Refusal :=
  issue s fun s => faConfigure s fun f => { f with flags := imm }

/-- `FA.DLEN imm64` (R199): a value above `0xFFFFFFFF` is accepted here and reported by `FA.HDR`. -/
def execFaDlen (imm : BitVec 64) (s : State) : Host.Outcome State Fault Refusal :=
  issue s fun s => faConfigure s fun f => { f with dlen := imm }

/-- `FA.RLEN imm64` (R200): a value above `0xFFFFFFFF` is accepted here and reported by `FA.HDR`. -/
def execFaRlen (imm : BitVec 64) (s : State) : Host.Outcome State Fault Refusal :=
  issue s fun s => faConfigure s fun f => { f with rlen := imm }

/-- `FA.HDR` (R201): the four checks in their order (R253), then the header. -/
def execFaHdr (s : State) : Host.Outcome State Fault Refusal :=
  issue s fun s =>
    if s.fa.ph ≠ .cfg then raise .illegalOp s
    else if Config.maxName < s.fa.nlen.toNat then raise .fileNameTooLong s
    else if Config.maxFork < s.fa.dlen then raise .dataTooLarge s
    else if Config.maxFork < s.fa.rlen then raise .resourceTooLarge s
    else faEmitHeader s

/-- `FA.PUSH imm8` (R203): `IllegalOp` in phases `CFG` and `DONE`, before any change. -/
def execFaPush (imm : BitVec 8) (s : State) : Host.Outcome State Fault Refusal :=
  issue s fun s => whenLegal (s.fa.ph = .data ∨ s.fa.ph = .rsrc) s fun s => faPushByte s imm

end Sys2Proof.Machine
end

