-- ==== Sys2Proof/Machine/FrameParser.lean ====
section
/-! DEFINITION. The frame parser and verifier, the companion unit FPV (`48_frame_parser_verify.md`): the operations R215,
R216 and R218, present when `HAS_FPV` is true (R9). -/

namespace Sys2Proof.Machine

/-- What rule R216 reads for one fork: its offset, its CRC field, whether the field is present, and the offset after
it. -/
structure ForkFields where
  off : Nat
  crc : CrcWord
  crcp : Bool
  next : Nat
  deriving DecidableEq, Repr

/-- One fork of `len` bytes at offset `p` (R216): none when the buffer is shorter than the fork; a CRC field of which
fewer than 2 bytes remain is absent, reads 0, and ends the buffer (R217 b). -/
def parseFork (bytes : List Byte) (p len : Nat) : Option ForkFields :=
  if bytes.length - p < len then none
  else if 2 ≤ bytes.length - (p + len) then
    some { off := p, crc := BitVec.ofNat 16 (fieldBE bytes (p + len) 2), crcp := true, next := p + len + 2 }
  else some { off := p, crc := 0#16, crcp := false, next := bytes.length }

/-- The view of a frame whose header is whole, its name length `n` being its first byte: the fields of rule R216 with
`o = n + 2`, then the two forks; none when a fork is truncated. -/
def parseBody (bytes : List Byte) (n : Byte) : Option ViewRegs :=
  let o := n.toNat + 2
  let dlen := fieldBE bytes (o + 10) 4
  let rlen := fieldBE bytes (o + 14) 4
  match parseFork bytes (o + 20) dlen with
  | none => none
  | some d =>
    match parseFork bytes d.next rlen with
    | none => none
    | some r =>
      some { valid := true, nlen := n,
             type := BitVec.ofNat 32 (fieldBE bytes o 4), auth := BitVec.ofNat 32 (fieldBE bytes (o + 4) 4),
             flags := BitVec.ofNat 16 (fieldBE bytes (o + 8) 2),
             dlen := BitVec.ofNat 32 dlen, rlen := BitVec.ofNat 32 rlen,
             hcrc := BitVec.ofNat 16 (fieldBE bytes (o + 18) 2),
             doff := d.off, roff := r.off, dcrc := d.crc, rcrc := r.crc, dcrcp := d.crcp, rcrcp := r.crcp }

/-- `FP.PARSE` as a function of the buffer (R216): none where it raises `BadFormat`. -/
def parseView (bytes : List Byte) : Option ViewRegs :=
  match bytes with
  | [] => none
  | n :: _ => if bytes.length < n.toNat + 22 then none else parseBody bytes n

/-- The header bytes that `VF.RUN` checks, `RAW[0 .. V.NLEN + 20)` (R218). -/
def viewHeader (v : ViewRegs) (raw : List Byte) : List Byte := slice raw 0 (v.nlen.toNat + 20)

/-- The data fork `RAW[V.DOFF .. V.DOFF + V.DLEN)` (R217). -/
def viewData (v : ViewRegs) (raw : List Byte) : List Byte := slice raw v.doff (v.doff + v.dlen.toNat)

/-- The resource fork `RAW[V.ROFF .. V.ROFF + V.RLEN)` (R217). -/
def viewRsrc (v : ViewRegs) (raw : List Byte) : List Byte := slice raw v.roff (v.roff + v.rlen.toNat)

/-- The name `RAW[1 .. 1 + V.NLEN)` (R217). -/
def viewName (v : ViewRegs) (raw : List Byte) : List Byte := slice raw 1 (1 + v.nlen.toNat)

/-- One section of `VF.RUN` (R218): its CRC is written to `CRC.R`; a mismatch with `expected` raises `c`, else `rest`
goes on. An absent section (`present = false`) is not checked. -/
def verifySection (present : Bool) (bytes : List Byte) (expected : CrcWord) (c : Cause) (s : State)
    (rest : State → State) : State :=
  if present then
    if storedCrc bytes ≠ expected then raise c (s.setCrc (storedCrc bytes))
    else rest (s.setCrc (storedCrc bytes))
  else rest s

/-- `VF.RUN` with a valid view (R218): header, data fork, resource fork, in that order, stopping at the first
mismatch. -/
def verifyView (s : State) : State :=
  verifySection true (viewHeader s.v s.raw) s.v.hcrc .crcHeader s fun s =>
    verifySection (0#32 < s.v.dlen) (viewData s.v s.raw) s.v.dcrc .crcData s fun s =>
      verifySection (0#32 < s.v.rlen) (viewRsrc s.v s.raw) s.v.rcrc .crcResource s id

/-- `FP.CLR` (R215): every `V.*` register 0; `IllegalOp` when the unit is absent. -/
def execFpClr (s : State) : Host.Outcome State Fault Refusal :=
  issue s fun s => whenLegal s.params.hasFpv s fun s => s.setV ViewRegs.reset

/-- `FP.PARSE` (R216): the view of `RAW`, or `BadFormat` before any `V.*` register is written; `IllegalOp` when the unit
is absent. -/
def execFpParse (s : State) : Host.Outcome State Fault Refusal :=
  issue s fun s => whenLegal s.params.hasFpv s fun s =>
    match parseView s.raw with
    | none => raise .badFormat s
    | some v => s.setV v

/-- `VF.RUN` (R218): `IllegalOp` when the unit is absent or no view is valid, else the three checks. -/
def execVfRun (s : State) : Host.Outcome State Fault Refusal :=
  issue s fun s => whenLegal (s.params.hasFpv && s.v.valid) s verifyView

end Sys2Proof.Machine
end

