-- ==== Sys2Proof/Machine/RleDecoder.lean ====
section
/-! DEFINITION. The RLE decoder (`45_rle_decoder.md`): the procedure R172 and the operations R170, R173, R174. -/

namespace Sys2Proof.Machine

/-- `rd_byte(b)` (R172). The run branch sees counts 1..255 only, since the count `0x00` is tested first, so `b - 1` is in
0..254 and never wraps. -/
def rdByte (s : State) (b : Byte) : State :=
  if s.rd.has = false then
    if b = Config.marker then s.setRd { s.rd with has := true }
    else (s.appendRaw [b]).setRd { s.rd with last := b }
  else if b = 0x00#8 then (s.appendRaw [Config.marker]).setRd { has := false, last := Config.marker }
  else (s.appendRaw (List.replicate (b.toNat - 1) s.rd.last)).setRd { s.rd with has := false }

/-- `RD.CLR` (R170): the decoder's registers and `RAW` as after reset; `V.*` is not touched. -/
def execRdClr (s : State) : Host.Outcome State Fault Refusal := issue s fun s => (s.setRd RdRegs.reset).setRaw []

/-- `RD.BYTE imm8` (R173): `rd_byte(imm8)`. -/
def execRdByte (imm : BitVec 8) (s : State) : Host.Outcome State Fault Refusal := issue s fun s => rdByte s imm

/-- `RD.END` (R174): `BadRunLengthEncoding` when a marker is unconsumed, else nothing. -/
def execRdEnd (s : State) : Host.Outcome State Fault Refusal :=
  issue s fun s => if s.rd.has then raise .badRunLengthEncoding s else s

end Sys2Proof.Machine
end

