-- ==== Sys2Proof/Machine/Sys.lean ====
section
/-! DEFINITION. The system operations (`40_system.md`, rules R110 to R112) and the reserved opcode (R85). -/

namespace Sys2Proof.Machine

/-- `NOP` (R110): nothing. -/
def execNop (s : State) : Host.Outcome State Fault Refusal := issue s id

/-- `CORE.RST` (R111): every register and stream takes its reset value; it executes while `ST.FAULT = 1` too (R252). -/
def execCoreRst (s : State) : Host.Outcome State Fault Refusal := .next (coreReset s)

/-- `CTL.WR imm8` (R112): `CTL <- zext_8(imm8[2:0])`. -/
def execCtlWr (imm : BitVec 8) (s : State) : Host.Outcome State Fault Refusal :=
  issue s fun s => s.setCtl (ctlOfOperand imm)

/-- A reserved opcode (R85): it raises `IllegalOp` and changes nothing else; ignored while `ST.FAULT = 1` (R251). -/
def execReserved (s : State) : Host.Outcome State Fault Refusal := issue s (raise .illegalOp)

end Sys2Proof.Machine
end

