-- ==== Sys2Proof/Machine/Unpacker.lean ====
section
/-! DEFINITION. The 6-to-8 bit unpacker (`44_unpacker.md`): the link R64, the procedure R162 and the operations R160,
R161, R163. -/

namespace Sys2Proof.Machine

/-- `up_emit(b)` (R64): to the RLE decoder when `CTL.L_UP_RD = 1`, else to `PKD`. -/
def upEmit (s : State) (b : Byte) : State := if s.ctl.lUpRd then rdByte s b else s.appendPkd [b]

/-- `up_sym(s)` (R162): the cycle of four symbols to three bytes. -/
def upSym (s : State) (y : Symbol) : State :=
  if s.up.st = 0#2 then s.setUp { carry := y.setWidth 8 <<< 2, st := 1#2 }
  else if s.up.st = 1#2 then
    (upEmit s (s.up.carry ||| (y >>> 4).setWidth 8)).setUp { carry := (y &&& 0x0F#6).setWidth 8 <<< 4, st := 2#2 }
  else if s.up.st = 2#2 then
    (upEmit s (s.up.carry ||| (y >>> 2).setWidth 8)).setUp { carry := (y &&& 0x03#6).setWidth 8 <<< 6, st := 3#2 }
  else (upEmit s (s.up.carry ||| y.setWidth 8)).setUp { carry := 0#8, st := 0#2 }

/-- `UP.CLR` (R160): the unpacker's registers and `PKD` as after reset; it does not reach through the link. -/
def execUpClr (s : State) : Host.Outcome State Fault Refusal := issue s fun s => (s.setUp UpRegs.reset).setPkd []

/-- `UP.CHAR imm8` (R161): a skipped byte changes nothing, an invalid one raises `BadFormat` before any state change, an
alphabet character goes to `up_sym`. -/
def execUpChar (imm : BitVec 8) (s : State) : Host.Outcome State Fault Refusal :=
  issue s fun s =>
    match classify imm with
    | .skip => s
    | .invalid => raise .badFormat s
    | .sym y => upSym s y

/-- `UP.END` (R163): pending bits are discarded, nothing is emitted, `PKD` is kept. -/
def execUpEnd (s : State) : Host.Outcome State Fault Refusal := issue s fun s => s.setUp { carry := 0#8, st := 0#2 }

end Sys2Proof.Machine
end

