-- ==== Sys2Proof/Machine/Dispatch.lean ====
section
/-! DEFINITION. One arm per operation of rule R84. -/

namespace Sys2Proof.Machine

def exec (i : Instr) (s : State) : Host.Outcome State Fault Refusal :=
  match i with
  | .nop => Sys2Proof.Machine.execNop s
  | .coreRst => Sys2Proof.Machine.execCoreRst s
  | .ctlWr imm => Sys2Proof.Machine.execCtlWr imm s
  | .crcClr => Sys2Proof.Machine.execCrcClr s
  | .crcByte imm => Sys2Proof.Machine.execCrcByte imm s
  | .crcFlush => Sys2Proof.Machine.execCrcFlush s
  | .crcVfy imm => Sys2Proof.Machine.execCrcVfy imm s
  | .pkClr => Sys2Proof.Machine.execPkClr s
  | .pkBegin => Sys2Proof.Machine.execPkBegin s
  | .pkByte imm => Sys2Proof.Machine.execPkByte imm s
  | .pkFlush => Sys2Proof.Machine.execPkFlush s
  | .pkEnd => Sys2Proof.Machine.execPkEnd s
  | .upClr => Sys2Proof.Machine.execUpClr s
  | .upChar imm => Sys2Proof.Machine.execUpChar imm s
  | .upEnd => Sys2Proof.Machine.execUpEnd s
  | .rdClr => Sys2Proof.Machine.execRdClr s
  | .rdByte imm => Sys2Proof.Machine.execRdByte imm s
  | .rdEnd => Sys2Proof.Machine.execRdEnd s
  | .reClr => Sys2Proof.Machine.execReClr s
  | .reByte imm => Sys2Proof.Machine.execReByte imm s
  | .reEnd => Sys2Proof.Machine.execReEnd s
  | .faClr => Sys2Proof.Machine.execFaClr s
  | .faNclr => Sys2Proof.Machine.execFaNclr s
  | .faNpush imm => Sys2Proof.Machine.execFaNpush imm s
  | .faType imm => Sys2Proof.Machine.execFaType imm s
  | .faAuth imm => Sys2Proof.Machine.execFaAuth imm s
  | .faFlags imm => Sys2Proof.Machine.execFaFlags imm s
  | .faDlen imm => Sys2Proof.Machine.execFaDlen imm s
  | .faRlen imm => Sys2Proof.Machine.execFaRlen imm s
  | .faHdr => Sys2Proof.Machine.execFaHdr s
  | .faPush imm => Sys2Proof.Machine.execFaPush imm s
  | .fpClr => Sys2Proof.Machine.execFpClr s
  | .fpParse => Sys2Proof.Machine.execFpParse s
  | .vfRun => Sys2Proof.Machine.execVfRun s

end Sys2Proof.Machine
end

