-- ==== Sys2Proof/Machine/Fetch.lean ====
section
/-! DEFINITION. Taking the next command from the command port (R80 of `30_encoding.md`; log 1). -/

namespace Sys2Proof.Machine

/-- What stands at the front of the command port. -/
def fetch (s : State) : Decoded := decode s.port

/-- The command bytes of a word of the opcode table, placed on the command port by the host. -/
def fetchBytes (nbits w : Nat) : List Byte := tableCommand nbits w

end Sys2Proof.Machine
end

