-- ==== Sys2Proof/Machine/Step.lean ====
section
/-! DEFINITION. One step of the machine: the command at the front of the port is consumed and issued (R17, R80). -/

namespace Sys2Proof.Machine

/-- One step (R17): the operation whose bytes stand first on the port is consumed and executed; a reserved opcode is
consumed as one byte and raises `IllegalOp` (R85); while no complete command is there the state does not change (R80 c,
R261; log 2). -/
def step (s : State) : Host.Outcome State Fault Refusal :=
  match fetch s with
  | .op i rest => exec i (s.setPort rest)
  | .reserved _ rest => execReserved (s.setPort rest)
  | .incomplete => .next s

/-- `s` with the command of a table word, and nothing else, on the command port: the host issues it (log 1). -/
def State.withFetchWord (s : State) (nbits w : Nat) : State := s.setPort (fetchBytes nbits w)

end Sys2Proof.Machine
end

