-- ==== Sys2Proof/Machine/ReadPorts.lean ====
section
/-! DEFINITION. The read ports (rule R35 of `10_state.md`): the host reads every register of rules R22 to R30 and every
byte of every stream at any time, with no side effect. A read is a function of the state, never a step (log 8). -/

namespace Sys2Proof.Machine

/-- The registers of rule R34, by name; `FA.NAME` is read entry by entry. -/
inductive Reg where
  | ctl | st | crcR
  | pkSt | pkCarry | pkCol
  | upSt | upCarry
  | rdHas | rdLast
  | reHave | reCur | reCnt
  | faName (i : Fin 255) | faNlen | faType | faAuth | faFlags | faDlen | faRlen | faPh | faRem
  | vValid | vNlen | vType | vAuth | vFlags | vDlen | vRlen | vHcrc | vDoff | vRoff | vDcrc | vRcrc | vDcrcp | vRcrcp
  deriving DecidableEq, Repr

/-- The five streams of rule R31. -/
inductive Stream where
  | frm | rle | txt | pkd | raw
  deriving DecidableEq, Repr

/-- The value of a register, as the unsigned number its bits stand for (R12); a 1-bit register reads 0 or 1.

DESIGN CHOICE (log 15): R9 and R30 give the `V.*` registers only when `HAS_FPV` is true and do not say what a read of
them gives otherwise. The model holds them in every state, and a read gives what they hold: 0 after reset, and no
operation writes them when the unit is absent. -/
def readReg (s : State) : Reg → Nat
  | .ctl => s.ctlByte.toNat
  | .st => s.stByte.toNat
  | .crcR => s.crc.toNat
  | .pkSt => s.pk.st.toNat
  | .pkCarry => s.pk.carry.toNat
  | .pkCol => s.pk.col.toNat
  | .upSt => s.up.st.toNat
  | .upCarry => s.up.carry.toNat
  | .rdHas => s.rd.has.toNat
  | .rdLast => s.rd.last.toNat
  | .reHave => s.re.haveRun.toNat
  | .reCur => s.re.cur.toNat
  | .reCnt => s.re.cnt.toNat
  | .faName i => (s.fa.name.get i).toNat
  | .faNlen => s.fa.nlen.toNat
  | .faType => s.fa.type.toNat
  | .faAuth => s.fa.auth.toNat
  | .faFlags => s.fa.flags.toNat
  | .faDlen => s.fa.dlen.toNat
  | .faRlen => s.fa.rlen.toNat
  | .faPh => s.fa.ph.bits.toNat
  | .faRem => s.fa.rem.toNat
  | .vValid => s.v.valid.toNat
  | .vNlen => s.v.nlen.toNat
  | .vType => s.v.type.toNat
  | .vAuth => s.v.auth.toNat
  | .vFlags => s.v.flags.toNat
  | .vDlen => s.v.dlen.toNat
  | .vRlen => s.v.rlen.toNat
  | .vHcrc => s.v.hcrc.toNat
  | .vDoff => s.v.doff
  | .vRoff => s.v.roff
  | .vDcrc => s.v.dcrc.toNat
  | .vRcrc => s.v.rcrc.toNat
  | .vDcrcp => s.v.dcrcp.toNat
  | .vRcrcp => s.v.rcrcp.toNat

/-- The bytes of a stream. -/
def readStream (s : State) : Stream → List Byte
  | .frm => s.frm
  | .rle => s.rle
  | .txt => s.txt
  | .pkd => s.pkd
  | .raw => s.raw

/-- `S[i]` (R14): the byte at offset `i` of a stream; none at or past its end. -/
def readStreamByte (s : State) (q : Stream) (i : Nat) : Option Byte := (readStream s q)[i]?

end Sys2Proof.Machine
end

