-- ==== Sys2Proof/Machine/Sequences.lean ====
section
/-! DEFINITION. What the host issues: the pseudo-operations of rule R87 (`30_encoding.md`) and the sequences ENCODE and
DECODE of rules R231 and R232 (`49_pipelines.md`), as lists of operations; and a list of operations executed in issue
order (R71). -/

namespace Sys2Proof.Machine

/-- The operations executed one after the other, each to completion (R17, R71 a). -/
def execAll : List Instr → State → Host.Outcome State Fault Refusal
  | [], s => .next s
  | i :: is, s =>
    match exec i s with
    | .next t => execAll is t
    | .fault r => .fault r
    | .refused r => .refused r

/-- `CRC.STR <bytes>` (R87). -/
def crcStr (bytes : List Byte) : List Instr := bytes.map .crcByte
/-- `CRC.MSG <bytes>` (R87). -/
def crcMsg (bytes : List Byte) : List Instr := .crcClr :: crcStr bytes ++ [.crcFlush]
/-- `PK.STR <bytes>` (R87). -/
def pkStr (bytes : List Byte) : List Instr := bytes.map .pkByte
/-- `UP.STR <bytes>` (R87). -/
def upStr (bytes : List Byte) : List Instr := bytes.map .upChar
/-- `RD.STR <bytes>` (R87). -/
def rdStr (bytes : List Byte) : List Instr := bytes.map .rdByte
/-- `RE.STR <bytes>` (R87). -/
def reStr (bytes : List Byte) : List Instr := bytes.map .reByte
/-- `FA.NAME <bytes>` (R87). -/
def faName (bytes : List Byte) : List Instr := .faNclr :: bytes.map .faNpush
/-- `FA.STR <bytes>` (R87). -/
def faStr (bytes : List Byte) : List Instr := bytes.map .faPush
/-- `LINK.NONE` (R87). -/
def linkNone : Instr := .ctlWr 0x00#8
/-- `LINK.ENC` (R87): FA to RE to PK. -/
def linkEnc : Instr := .ctlWr 0x03#8
/-- `LINK.DEC` (R87): UP to RD. -/
def linkDec : Instr := .ctlWr 0x04#8

/-- The arguments of ENCODE (R231); an optional one left out keeps its reset default. -/
structure EncodeArgs where
  name : Option (List Byte)
  type : Option (BitVec 32)
  auth : Option (BitVec 32)
  flags : Option (BitVec 16)
  data : List Byte
  rsrc : List Byte
  deriving DecidableEq, Repr

/-- The operations that write the optional arguments (R231). -/
def configOps (a : EncodeArgs) : List Instr :=
  (a.name.map faName).getD [] ++ (a.type.map .faType).toList ++ (a.auth.map .faAuth).toList ++
    (a.flags.map .faFlags).toList

/-- ENCODE (R231).

DESIGN CHOICE (log 16): R248 says that lengths of 2^64 and above cannot be presented, so ENCODE of such data has no
meaning in the spec; this list of operations then carries the length modulo 2^64. -/
def encodeSequence (a : EncodeArgs) : List Instr :=
  [.coreRst, linkEnc] ++ configOps a ++
    [.faDlen (BitVec.ofNat 64 a.data.length), .faRlen (BitVec.ofNat 64 a.rsrc.length), .pkBegin, .faHdr] ++
    faStr a.data ++ faStr a.rsrc ++ [.reEnd, .pkEnd]

/-- DECODE (R232): `payload` is what stands between the two colons. -/
def decodeSequence (payload : List Byte) (verify : Bool) : List Instr :=
  [.coreRst, linkDec] ++ upStr payload ++ [.upEnd, .rdEnd, .fpParse] ++ (if verify then [.vfRun] else [])

end Sys2Proof.Machine
end

