-- ==== Sys2Proof/Safety.lean ====
section
/-! DEFINITION. The terms that claims use: the invariants of rule R36 (`10_state.md`), which operation may raise which
cause (R241) and what the causes stand for (R256), the end of a session (R234), and the data formats the source fixes as
functions of their fields: the wrapped line (R145), the RLE items (R171, R181) and the frame (R191, R204). -/

namespace Sys2Proof.Machine

/-! ### The invariants (R36) -/

/-- R36 a, b: `PK.ST` is 0, 1 or 2, `PK.CARRY` has its form (0, or the low 4 or 2 bits clear), `PK.COL` is at most
63. -/
abbrev PkRegs.Inv (p : PkRegs) : Prop :=
  p.st ≠ 3#2 ∧ (p.st = 0#2 → p.carry = 0#6) ∧ (p.st = 1#2 → p.carry &&& 0x0F#6 = 0#6) ∧
    (p.st = 2#2 → p.carry &&& 0x03#6 = 0#6) ∧ p.col ≤ 63#7

/-- R36 c: `UP.CARRY` has the form R26 gives for `UP.ST`. -/
abbrev UpRegs.Inv (u : UpRegs) : Prop :=
  (u.st = 0#2 → u.carry = 0#8) ∧ (u.st = 1#2 → u.carry &&& 0x03#8 = 0#8) ∧
    (u.st = 2#2 → u.carry &&& 0x0F#8 = 0#8) ∧ (u.st = 3#2 → u.carry &&& 0x3F#8 = 0#8)

/-- R36 d: no run pending means both registers 0, a pending run has 1 to 255 bytes. -/
abbrev ReRegs.Inv (r : ReRegs) : Prop :=
  (r.haveRun = false → r.cur = 0#8 ∧ r.cnt = 0#8) ∧ (r.haveRun = true → r.cnt ≠ 0#8)

/-- R36 e, f, with what keeps f: outside phase `CFG` the configuration has passed the checks of `FA.HDR`. -/
abbrev FaRegs.Inv (f : FaRegs) : Prop :=
  f.nlen ≤ 256#9 ∧ ((f.ph = .data ∨ f.ph = .rsrc) ↔ f.rem ≠ 0#32) ∧
    (f.ph = .data → f.rem.toNat ≤ f.dlen.toNat) ∧ (f.ph = .rsrc → f.rem.toNat ≤ f.rlen.toNat) ∧
    (f.ph ≠ .cfg → f.nlen ≤ 255#9 ∧ f.dlen ≤ Config.maxFork ∧ f.rlen ≤ Config.maxFork)

/-- All five streams are empty. -/
abbrev State.StreamsEmpty (s : State) : Prop := s.frm = [] ∧ s.rle = [] ∧ s.txt = [] ∧ s.pkd = [] ∧ s.raw = []

/-- R36 g: `ST.CAUSE` is 0 without a fault, and 1 to 9 with all streams empty after one. -/
abbrev State.FaultInv (s : State) : Prop :=
  (s.st.fault = false → s.st.cause = 0#4) ∧
    (s.st.fault = true → 1#4 ≤ s.st.cause ∧ s.st.cause ≤ 9#4 ∧ s.StreamsEmpty)

/-- The invariant: R36 a to h; legal parameters (R8); and a view that is all 0 while `V.VALID = 0` (R30, R215, R216). -/
abbrev State.Inv (s : State) : Prop :=
  s.pk.Inv ∧ s.up.Inv ∧ s.re.Inv ∧ s.fa.Inv ∧ s.FaultInv ∧ s.ctlByte >>> 3 = 0#8 ∧
    s.params.wellFormed = true ∧ (s.v.valid = false → s.v = ViewRegs.reset)

/-! ### Causes (R241, R256) -/

/-- The "raised by" column of rule R241, read by operation. -/
def mayRaise : Instr → List Cause
  | .upChar _ => [.badFormat]
  | .rdEnd => [.badRunLengthEncoding]
  | .faNclr | .faNpush _ | .faType _ | .faAuth _ | .faFlags _ | .faDlen _ | .faRlen _ | .faPush _ => [.illegalOp]
  | .faHdr => [.illegalOp, .fileNameTooLong, .dataTooLarge, .resourceTooLarge]
  | .fpClr => [.illegalOp]
  | .fpParse => [.illegalOp, .badFormat]
  | .vfRun => [.illegalOp, .crcHeader, .crcData, .crcResource]
  | .nop | .coreRst | .ctlWr _ | .crcClr | .crcByte _ | .crcFlush | .crcVfy _ | .pkClr | .pkBegin | .pkByte _ | .pkFlush
  | .pkEnd | .upClr | .upEnd | .rdClr | .rdByte _ | .reClr | .reByte _ | .reEnd | .faClr => []

/-- The source's `DecodeError`: causes 1 to 5 (R256). -/
def Cause.isDecodeError (c : Cause) : Bool := 1#4 ≤ c.code && c.code ≤ 5#4

/-- The source's `EncodeError`: causes 6 to 8 (R256). -/
def Cause.isEncodeError (c : Cause) : Bool := 6#4 ≤ c.code && c.code ≤ 8#4

/-! ### The end of a session (R234) -/

/-- Among the operations `ops`, issued from `s`, `i` has executed with `ST.FAULT = 0` and left a state with `P`, in the
session that `ops` end in: no `CORE.RST`, which begins every session (R231, R232), comes after it. -/
def State.HasExecuted (s : State) (ops : List Instr) (i : Instr) (P : State → Prop) : Prop :=
  ∃ before after u v, ops = before ++ i :: after ∧ Instr.coreRst ∉ after ∧
    execAll before s = .next u ∧ u.st.fault = false ∧ exec i u = .next v ∧ v.st.fault = false ∧ P v

/-- The operations `ops`, issued from `s`, leave `t` with an encode session complete (R234, R278): `PK.END` has executed
with `ST.FAULT = 0` and `FA.PH = DONE`, and no fault is there ("a session with `ST.FAULT = 1` has no result"). -/
def State.EncodeComplete (s : State) (ops : List Instr) (t : State) : Prop :=
  execAll ops s = .next t ∧ t.st.fault = false ∧ s.HasExecuted ops .pkEnd fun v => v.fa.ph = .done

/-- The operations `ops`, issued from `s`, leave `t` with a decode session complete (R234): `FP.PARSE`, and `VF.RUN` when
verification is wanted, has executed with `ST.FAULT = 0`, and no fault is there. -/
def State.DecodeComplete (s : State) (verify : Bool) (ops : List Instr) (t : State) : Prop :=
  execAll ops s = .next t ∧ t.st.fault = false ∧ (s.HasExecuted ops .fpParse fun _ => True) ∧
    (verify = true → s.HasExecuted ops .vfRun fun _ => True)

/-! ### Wrapped lines (R145) -/

/-- What symbols add to `TXT` when `col` symbols stand on the current line, and the column after them (R145). -/
def wrapSymbols : Nat → List Symbol → List Byte × Nat
  | col, [] => ([], col)
  | col, y :: ys =>
    if col + 1 = Config.lineLength then
      (alpha y :: Config.cr :: Config.lf :: (wrapSymbols 0 ys).1, (wrapSymbols 0 ys).2)
    else (alpha y :: (wrapSymbols (col + 1) ys).1, (wrapSymbols (col + 1) ys).2)

/-! ### The RLE stream (R171, R181) -/

/-- A literal item: the byte, with `0x00` after it when it is the marker (R171 a, b; R181). -/
def litBytes (v : Byte) : List Byte := if v = Config.marker then [v, 0x00#8] else [v]

/-- A run of `n` bytes `v` as `re_run` emits it, with `RE_MIN_RUN = minRun` (R181). -/
def runBytes (minRun : Nat) (v : Byte) (n : BitVec 8) : List Byte :=
  if minRun ≤ n.toNat then litBytes v ++ [Config.marker, n] else (List.replicate n.toNat (litBytes v)).flatten

/-! ### Delivery through the links (R62 to R64) -/

/-- Bytes the RLE encoder emits: packed when `CTL.L_RE_PK = 1`, else appended to `RLE` (R63). -/
def deliverRe (s : State) (bytes : List Byte) : State :=
  if s.ctl.lRePk then bytes.foldl pkByte s else { s with rle := s.rle ++ bytes }

/-- Bytes the frame assembler emits: RLE-encoded when `CTL.L_FA_RE = 1`, else appended to `FRM` (R62). -/
def deliverFa (s : State) (bytes : List Byte) : State :=
  if s.ctl.lFaRe then bytes.foldl reByte s else { s with frm := s.frm ++ bytes }

/-- Bytes the unpacker emits: expanded when `CTL.L_UP_RD = 1`, else appended to `PKD` (R64). -/
def deliverUp (s : State) (bytes : List Byte) : State :=
  if s.ctl.lUpRd then bytes.foldl rdByte s else { s with pkd := s.pkd ++ bytes }

/-! ### The frame (R191, R204) -/

/-- The header bytes before the CRC field, from the fields (R191). -/
def headerBytes (name : List Byte) (type auth : BitVec 32) (flags : BitVec 16) (dlen rlen : Nat) : List Byte :=
  [BitVec.ofNat 8 name.length] ++ name ++ [0x00#8] ++ beBytes 4 type.toNat ++ beBytes 4 auth.toNat ++
    beBytes 2 flags.toNat ++ beBytes 4 dlen ++ beBytes 4 rlen

/-- A message followed by the CRC a frame stores for it (R192). -/
def withCrc (m : List Byte) : List Byte := m ++ beBytes 2 (storedCrc m).toNat

/-- The whole frame (R191, R204). -/
def frame (name : List Byte) (type auth : BitVec 32) (flags : BitVec 16) (data rsrc : List Byte) : List Byte :=
  withCrc (headerBytes name type auth flags data.length rsrc.length) ++ withCrc data ++ withCrc rsrc

end Sys2Proof.Machine
end

