-- ==== Sys2Proof/Certificates/Slice0/Obligations.lean ====
section
/-! DEFINITION. The statements for the provers. Each docstring names the rules of `spec/` it formalises. A next state is
written as the state before with exactly the fields the rule changes replaced (`{ s with … }`), so every statement of a
result is a frame and a completion statement too: no other register, no stream, not the command port, changes. -/

open Sys2Proof Sys2Proof.Machine

/-! ### The encoding (`30_encoding.md`) -/

/-- R80, R81, R83, R84: the decoder reads from an encoded operation, whatever follows it, that operation with its operand
and the bytes that follow. -/
def Obligations.DecodeInvertsEncode : Prop :=
  ∀ (i : Instr) (rest : List Byte), decode (encode i ++ rest) = .op i rest

/-- R80, R81, R83, R84: bytes that decode to an operation begin with that operation's encoding: an operation has one
encoding. -/
def Obligations.EncodeInvertsDecode : Prop :=
  ∀ (bytes : List Byte) (i : Instr) (rest : List Byte), decode bytes = .op i rest → bytes = encode i ++ rest

/-- R85 with `HAS_FPV` true: the reserved opcode bytes are exactly the listed ranges, 222 values, whatever follows them;
a reserved command is one byte. R85 makes `0x70` to `0x72` reserved too when `HAS_FPV` is false; that the decoder answers
the FPV operations for them whatever the parameter is (the step being the same, `IllegalOpConditions`) is the model's
reading (log 5). -/
def Obligations.ReservedOpcodesAreExactlyTheListed : Prop :=
  (∀ (opcode : Byte) (rest : List Byte), decode (opcode :: rest) = .reserved opcode rest ↔
      (0x03 ≤ opcode.toNat ∧ opcode.toNat ≤ 0x0F) ∨ (0x14 ≤ opcode.toNat ∧ opcode.toNat ≤ 0x1F) ∨
      (0x25 ≤ opcode.toNat ∧ opcode.toNat ≤ 0x2F) ∨ (0x33 ≤ opcode.toNat ∧ opcode.toNat ≤ 0x3F) ∨
      (0x43 ≤ opcode.toNat ∧ opcode.toNat ≤ 0x4F) ∨ (0x53 ≤ opcode.toNat ∧ opcode.toNat ≤ 0x5F) ∨
      (0x6A ≤ opcode.toNat ∧ opcode.toNat ≤ 0x6F) ∨ (0x73 ≤ opcode.toNat ∧ opcode.toNat ≤ 0x7F) ∨
      0x80 ≤ opcode.toNat) ∧
  (∀ (bytes : List Byte) (opcode : Byte) (rest : List Byte), decode bytes = .reserved opcode rest → bytes = opcode :: rest) ∧
  ((List.range 256).filter fun n => decode [BitVec.ofNat 8 n] == .reserved (BitVec.ofNat 8 n) []).length = 222

/-- R80 c: the decoder answers `incomplete` exactly on the proper initial parts of encodings (no byte at all among
them). -/
def Obligations.IncompleteMeansAProperInitialPart : Prop :=
  ∀ bytes : List Byte, decode bytes = .incomplete ↔ ∃ i tail, tail ≠ [] ∧ encode i = bytes ++ tail

/-- R81, R83, R84: one command of each unit, and of each format, written out from the spec's tables and listings. -/
def Obligations.SampleCommandsDecode : Prop :=
  decode [0x02#8, 0xFF#8] = .op (.ctlWr 0xFF#8) [] ∧
  decode [0x13#8, 0x31#8, 0xC3#8] = .op (.crcVfy 0x31C3#16) [] ∧
  decode [0x22#8, 0x4D#8] = .op (.pkByte 0x4D#8) [] ∧
  decode [0x31#8, 0x24#8] = .op (.upChar 0x24#8) [] ∧
  decode [0x42#8] = .op .rdEnd [] ∧
  decode [0x51#8, 0x41#8] = .op (.reByte 0x41#8) [] ∧
  decode [0x63#8, 0x54#8, 0x45#8, 0x58#8, 0x54#8] = .op (.faType 0x54455854#32) [] ∧
  decode [0x66#8, 0x00#8, 0x00#8, 0x00#8, 0x00#8, 0x00#8, 0x00#8, 0x00#8, 0x05#8] = .op (.faDlen 5#64) [] ∧
  decode [0x72#8] = .op .vfRun []

/-! ### The step (R17, R71, R80) -/

/-- R17, R80: when the bytes on the command port decode to an operation, the step consumes them and executes it. The port
as a field of the state is the model's choice (log 1). -/
def Obligations.StepRunsTheDecodedOperation : Prop :=
  ∀ (s : State) (i : Instr) (rest : List Byte), decode s.port = .op i rest → step s = exec i { s with port := rest }

/-- R85: issuing a reserved opcode without a fault consumes one byte, raises `IllegalOp` (fault entry of R250) and
changes nothing else. The bytes behind it stay on the port, the model's choice (log 1). -/
def Obligations.ReservedOpcodeRaisesIllegalOp : Prop :=
  ∀ (s : State) (opcode : Byte) (rest : List Byte), s.st.fault = false → s.port = opcode :: rest →
    (∀ i : Instr, i.opcode ≠ opcode) →
    step s = .next { s with port := rest, st := { s.st with fault := true, cause := 9#4 }, frm := [], rle := [],
                            txt := [], pkd := [], raw := [] }

/-- R80 c: "an incomplete command is not issued and has no effect until its bytes arrive"; an empty port is an idle block
(R261). That a step without a command answers the same state is the model's choice, log 2. -/
def Obligations.StepWithoutACommandIdles : Prop :=
  ∀ s : State, decode s.port = .incomplete → step s = .next s

/-- R71 a, R68: a string of commands on the port runs as its operations in issue order, one a step, and leaves the bytes
after it: the byte encoding only transports the operations. The port as a field of the state, whose remaining bytes
survive `CORE.RST` and fault entry, is the model's choice (log 1). -/
def Obligations.PortRunsTheOperationsInOrder : Prop :=
  ∀ (is : List Instr) (s : State) (rest : List Byte),
    Sys2Proof.core.run is.length { s with port := encodeAll is ++ rest } = execAll is { s with port := rest }

/-! ### The whole machine -/

/-- R284: "Every operation completes". That a faulting operation completes in a next state, by fault entry, is the
model's reading (log 9); that a step without a complete command answers a next state is the model's choice (log 2). -/
def Obligations.EveryOperationCompletes : Prop :=
  (∀ (i : Instr) (s : State), ∃ t, exec i s = .next t) ∧ ∀ s : State, ∃ t, step s = .next t

/-- R251: while `ST.FAULT = 1` every operation other than `CORE.RST` changes nothing and raises nothing; its bytes are
consumed (the port: log 1), and a reserved opcode raises nothing either. -/
def Obligations.FaultedCoreIgnoresAllButReset : Prop :=
  ∀ s : State, s.st.fault = true →
    (∀ i, i ≠ .coreRst → exec i s = .next s) ∧
    (∀ i rest, i ≠ .coreRst → decode s.port = .op i rest → step s = .next { s with port := rest }) ∧
    (∀ opcode rest, decode s.port = .reserved opcode rest → step s = .next { s with port := rest })

/-- R252: "The only exit is `CORE.RST`", which puts every register and stream in its reset state. That the parameters and
the bytes behind the command stay is the model's choice (log 3, log 1). -/
def Obligations.OnlyCoreRstLeavesTheFault : Prop :=
  ∀ s t : State, step s = .next t → s.st.fault = true → t.st.fault = false →
    ∃ rest, decode s.port = .op .coreRst rest ∧ t = { State.reset with params := s.params, port := rest }

/-- R36: every step keeps the invariant, from every state that has it. -/
def Obligations.StepKeepsTheInvariant : Prop := ∀ s t : State, s.Inv → step s = .next t → t.Inv

/-- R36: the reset state has the invariant. -/
def Obligations.ResetHasTheInvariant : Prop := State.reset.Inv

/-- R241: an operation that makes `ST.FAULT` become 1 is in the "raised by" column of the cause it leaves in `ST.CAUSE`;
the others never fault. -/
def Obligations.FaultsComeOnlyFromTheListedOperations : Prop :=
  ∀ (i : Instr) (s t : State), exec i s = .next t → s.st.fault = false → t.st.fault = true →
    ∃ c ∈ mayRaise i, t.st.cause = c.code

/-- R250, R251: after a fault every register but `ST.FAULT`, `ST.CAUSE` and, for `VF.RUN` alone, `CRC.R` is as it was
before the faulting operation, and the streams are empty. -/
def Obligations.FaultsArePrecise : Prop :=
  ∀ (i : Instr) (s t : State), exec i s = .next t → s.st.fault = false → t.st.fault = true →
    (i ≠ .vfRun → t.crc = s.crc) ∧
    t = { s with st := { s.st with fault := true, cause := t.st.cause }, crc := t.crc, frm := [], rle := [], txt := [],
                 pkd := [], raw := [] }

/-- R250: fault entry, as one operation, for every cause: `ST.FAULT` and `ST.CAUSE` written, the five streams emptied,
nothing else changed (`VOK` kept). -/
def Obligations.FaultEntryWritesStatusAndEmptiesStreams : Prop :=
  ∀ (c : Cause) (s : State), (raise c s).stByte = (s.stByte &&& 0x20#8) ||| (c.code.setWidth 8 <<< 1) ||| 0x01#8 ∧
    raise c s = { s with st := (raise c s).st, frm := [], rle := [], txt := [], pkd := [], raw := [] }

/-- R34, with R111 and R270: after power-on, and after `CORE.RST` from every state, faulted or not, every register and
stream has the value of the table of R34. -/
def Obligations.CoreRstLeavesTheListedValues : Prop :=
  encode .coreRst = [0x01#8] ∧
  (∀ s : State, ∃ t, exec .coreRst s = .next t) ∧
  ∀ t : State, (t = State.reset ∨ ∃ s, exec .coreRst s = .next t) →
    (∀ r : Reg, readReg t r = match r with
      | .faName i => ([0x55, 0x6E, 0x74, 0x69, 0x74, 0x6C, 0x65, 0x64, 0x2E, 0x68, 0x71, 0x78] : List Nat).getD i.val 0
      | .faNlen => 12
      | _ => 0) ∧
    ∀ q : Stream, readStream t q = []

/-- R23: the fields of `ST` as the host reads it, bits 7:6 read 0; R22: the same for `CTL`, bits 7:3 read 0. -/
def Obligations.ControlAndStatusReadTheirFields : Prop :=
  ∀ s : State,
    (s.stByte.getLsbD 0 = s.st.fault ∧ s.stByte.extractLsb' 1 4 = s.st.cause ∧ s.stByte.getLsbD 5 = s.st.vok ∧
      s.stByte.extractLsb' 6 2 = 0#2) ∧
    (s.ctlByte.getLsbD 0 = s.ctl.lFaRe ∧ s.ctlByte.getLsbD 1 = s.ctl.lRePk ∧ s.ctlByte.getLsbD 2 = s.ctl.lUpRd ∧
      s.ctlByte.extractLsb' 3 5 = 0#5)

/-- R22, R23, R24: who writes `CTL`, `ST` and `CRC.R`: `CTL` only `CTL.WR` and `CORE.RST`; `ST` only fault entry,
`CRC.VFY` (its `VOK`) and `CORE.RST`: a change of `FAULT` is fault entry, from 0 to 1, with one of the causes that R241
lists for the operation, and `CAUSE` changes with `FAULT` only; `CRC.R` only the four CRC operations, `FA.HDR`,
`FA.PUSH`, `VF.RUN` and `CORE.RST`. -/
def Obligations.ControlStatusAndCrcHaveTheListedWriters : Prop :=
  ∀ (i : Instr) (s t : State), exec i s = .next t → i ≠ .coreRst →
    (t.ctl ≠ s.ctl → ∃ imm, i = .ctlWr imm) ∧
    (t.st.vok ≠ s.st.vok → ∃ imm, i = .crcVfy imm) ∧
    (t.st.fault ≠ s.st.fault → s.st.fault = false ∧
      ∃ c ∈ mayRaise i, t.st = { s.st with fault := true, cause := c.code }) ∧
    (t.st.fault = s.st.fault → t.st.cause = s.st.cause) ∧
    (t.crc ≠ s.crc → i = .crcClr ∨ (∃ imm, i = .crcByte imm) ∨ i = .crcFlush ∨ (∃ imm, i = .crcVfy imm) ∨ i = .faHdr ∨
      (∃ imm, i = .faPush imm) ∨ i = .vfRun)

/-- R31: a stream is append-only: it is emptied only by its unit's `CLR` operation, by `CORE.RST` and by fault entry,
and otherwise what it held stays, in place, at its front. -/
def Obligations.StreamsOnlyGrow : Prop :=
  ∀ (i : Instr) (s t : State), exec i s = .next t → i ≠ .coreRst → (s.st.fault = false → t.st.fault = false) →
    (i ≠ .faClr → s.frm <+: t.frm) ∧ (i ≠ .reClr → s.rle <+: t.rle) ∧ (i ≠ .pkClr → s.txt <+: t.txt) ∧
    (i ≠ .upClr → s.pkd <+: t.pkd) ∧ (i ≠ .rdClr → s.raw <+: t.raw)

/-! ### SYS and the partial resets -/

/-- R110: `NOP` changes nothing, faulted or not. -/
def Obligations.NopChangesNothing : Prop := encode .nop = [0x00#8] ∧ ∀ s : State, exec .nop s = .next s

/-- R112: `CTL.WR` writes bits 2:0 of its operand to `CTL`, bits 7:3 stay 0, and changes nothing else. -/
def Obligations.CtlWrWritesTheLinkBits : Prop :=
  ∀ (imm : BitVec 8) (s : State), s.st.fault = false → encode (.ctlWr imm) = [0x02#8, imm] ∧
    ∃ t, exec (.ctlWr imm) s = .next t ∧ t.ctlByte = imm &&& 0x07#8 ∧ t = { s with ctl := t.ctl }

/-- R271, with R125, R146, R160, R170, R180, R193, R194, R215, and R84 for the opcode bytes: each `CLR` operation puts
its unit's registers and its own stream in the reset state and nothing else; none executes while `ST.FAULT = 1`; all
seven and `CTL.WR 0x00` give the reset state but for `ST` (and for the port and the parameters, log 1 and log 3). -/
def Obligations.UnitClearsResetTheirUnitOnly : Prop :=
  (encode .crcClr = [0x10#8] ∧ encode .pkClr = [0x20#8] ∧ encode .upClr = [0x30#8] ∧ encode .rdClr = [0x40#8] ∧
    encode .reClr = [0x50#8] ∧ encode .faClr = [0x60#8] ∧ encode .faNclr = [0x61#8] ∧ encode .fpClr = [0x70#8]) ∧
  (∀ s : State, s.st.fault = false →
    exec .crcClr s = .next { s with crc := 0x0000#16 } ∧
    exec .pkClr s = .next { s with pk := { st := 0#2, carry := 0#6, col := 0#7 }, txt := [] } ∧
    exec .upClr s = .next { s with up := { st := 0#2, carry := 0#8 }, pkd := [] } ∧
    exec .rdClr s = .next { s with rd := { has := false, last := 0#8 }, raw := [] } ∧
    exec .reClr s = .next { s with re := { haveRun := false, cur := 0#8, cnt := 0#8 }, rle := [] } ∧
    exec .faClr s = .next { s with fa := State.reset.fa, frm := [] } ∧
    (s.params.hasFpv = true → exec .fpClr s = .next { s with v := State.reset.v }) ∧
    (s.fa.ph = .cfg → exec .faNclr s = .next { s with fa := { s.fa with nlen := 0#9 } }) ∧
    (s.params.hasFpv = true →
      execAll [.crcClr, .pkClr, .upClr, .rdClr, .reClr, .faClr, .fpClr, .ctlWr 0x00#8] s =
        .next { State.reset with params := s.params, port := s.port, st := s.st })) ∧
  ∀ s : State, s.st.fault = true →
    ∀ i ∈ [Instr.crcClr, .pkClr, .upClr, .rdClr, .reClr, .faClr, .fpClr, .faNclr], exec i s = .next s

/-! ### The CRC engine (`41_crc.md`) -/

/-- R126, R122: `CRC.BYTE` shifts the eight bits of its operand in, bit 7 first, and changes `CRC.R` alone. -/
def Obligations.CrcByteShiftsEightBits : Prop :=
  ∀ (imm : BitVec 8) (s : State), s.st.fault = false → encode (.crcByte imm) = [0x11#8, imm] ∧
    exec (.crcByte imm) s = .next { s with
      crc := crcBit (crcBit (crcBit (crcBit (crcBit (crcBit (crcBit (crcBit s.crc
        (imm.getLsbD 7)) (imm.getLsbD 6)) (imm.getLsbD 5)) (imm.getLsbD 4)) (imm.getLsbD 3)) (imm.getLsbD 2))
        (imm.getLsbD 1)) (imm.getLsbD 0) }

/-- R127: `CRC.FLUSH` is exactly `CRC.BYTE 0x00; CRC.BYTE 0x00`, changes `CRC.R` alone and is not idempotent; after a
message it leaves the CRC that a frame stores for it. -/
def Obligations.CrcFlushIsTwoZeroBytes : Prop :=
  (∀ s : State, s.st.fault = false → encode .crcFlush = [0x12#8] ∧
    exec .crcFlush s = .next { s with crc := crcByte (crcByte s.crc 0x00#8) 0x00#8 } ∧
    exec .crcFlush s = execAll [.crcByte 0x00#8, .crcByte 0x00#8] s ∧
    (s.crc = 0x0750#16 → exec .crcFlush s = .next { s with crc := 0xC362#16 }) ∧
    ∀ m : List Byte, execAll (crcMsg m) s = .next { s with crc := crcFlush (crc16 m) }) ∧
  ∃ r, crcFlush (crcFlush r) ≠ crcFlush r

/-- R128, R129: `CRC.VFY` flushes, keeps the flushed value and reports the comparison in `ST.VOK`, never faulting; after
a message it reports `verifyCrc`. -/
def Obligations.CrcVfyReportsTheComparison : Prop :=
  ∀ (imm : BitVec 16) (s : State), s.st.fault = false →
    encode (.crcVfy imm) = [0x13#8, imm.extractLsb' 8 8, imm.extractLsb' 0 8] ∧
    exec (.crcVfy imm) s =
      .next { s with crc := crcFlush s.crc, st := { s.st with vok := decide (crcFlush s.crc = imm) } } ∧
    ∀ m : List Byte, execAll (.crcClr :: crcStr m ++ [.crcVfy imm]) s =
      .next { s with crc := storedCrc m, st := { s.st with vok := verifyCrc m imm } }

/-- The polynomial over GF(2) of a bit string, its first bit the highest coefficient (R130). -/
noncomputable def Sys2Proof.Machine.bitPolynomial (bits : List Bool) : Polynomial (ZMod 2) :=
  bits.foldl (fun p b => p * Polynomial.X + if b then 1 else 0) 0

/-- `G(x) = x^16 + x^12 + x^5 + 1` (R130). -/
noncomputable def Sys2Proof.Machine.generatorPolynomial : Polynomial (ZMod 2) :=
  Polynomial.X ^ 16 + Polynomial.X ^ 12 + Polynomial.X ^ 5 + 1

/-- The bits of a CRC value, bit 15 first. -/
def Sys2Proof.Machine.crcBits (r : CrcWord) : List Bool := (beBytes 2 r.toNat).flatMap bitsMSB

/-- R130: `crc16(s)` is the remainder of `s(x)` divided by `G(x)`, and the stored CRC is the remainder of
`m(x) * x^16`. -/
def Obligations.CrcIsThePolynomialRemainder : Prop :=
  ∀ m : List Byte,
    bitPolynomial (crcBits (crc16 m)) = bitPolynomial (m.flatMap bitsMSB) %ₘ generatorPolynomial ∧
    bitPolynomial (crcBits (storedCrc m)) =
      (bitPolynomial (m.flatMap bitsMSB) * Polynomial.X ^ 16) %ₘ generatorPolynomial

/-- R130 a, b, c: `crc16` is linear over XOR for inputs of equal length; a message followed by its stored CRC leaves 0;
`verifyCrc(m, e)` holds for exactly one `e`. -/
def Obligations.CrcIsLinearWithZeroResidue : Prop :=
  (∀ a b : List Byte, a.length = b.length → crc16 (List.zipWith (· ^^^ ·) a b) = crc16 a ^^^ crc16 b) ∧
  (∀ m : List Byte, crc16 (m ++ beBytes 2 (crcFlush (crc16 m)).toNat) = 0x0000#16) ∧
  ∀ m : List Byte, ∃! e, verifyCrc m e = true

/-- R131: a message of at most two bytes is its own `crc16`; leading zero bytes are invisible; the stored CRC of an empty
fork is 0. -/
def Obligations.CrcOfShortAndZeroLedMessages : Prop :=
  (∀ m : List Byte, m.length ≤ 2 → (crc16 m).toNat = fromBE m) ∧
  (∀ (k : Nat) (m : List Byte), crc16 (List.replicate k 0x00#8 ++ m) = crc16 m) ∧
  storedCrc [] = 0x0000#16

/-! ### The alphabet and the packer (`42_alphabet.md`, `43_packer.md`) -/

/-- R135, R136, R137: the 64 characters of `ALPHA`, in symbol order, are those of the table (as text and as the nine runs
of byte values it consists of); `INV` inverts `ALPHA` both ways and is `none` for the other 192 byte values; `classify`
gives `skip` for exactly the three skip bytes, `sym` for exactly the alphabet, `invalid` otherwise. -/
def Obligations.AlphabetIsABijection : Prop :=
  ((List.range 64).map fun n => (alpha (BitVec.ofNat 6 n)).toNat) =
    List.range' 0x21 13 ++ List.range' 0x30 7 ++ List.range' 0x38 2 ++ List.range' 0x40 15 ++ List.range' 0x50 7 ++
      List.range' 0x58 4 ++ List.range' 0x60 7 ++ List.range' 0x68 6 ++ List.range' 0x70 3 ∧
  ((List.range 64).map fun n => (alpha (BitVec.ofNat 6 n)).toNat) =
    ("!\"#$%&'()*+,-012345689@ABCDEFGHIJKLMNPQRSTUVXYZ[`abcdefhijklmpqr".toList.map fun ch => ch.toNat) ∧
  (∀ y : Symbol, inv (alpha y) = some y) ∧
  (∀ (c : Byte) (y : Symbol), inv c = some y → alpha y = c) ∧
  ((List.range 256).filter fun n => (inv (BitVec.ofNat 8 n)).isNone).length = 192 ∧
  (∀ c : Byte, classify c = .skip ↔ c = 0x0D#8 ∨ c = 0x0A#8 ∨ c = 0xFF#8) ∧
  (∀ (c : Byte) (y : Symbol), classify c = .sym y ↔ alpha y = c) ∧
  ∀ c : Byte, classify c = .invalid ↔ (c ≠ 0x0D#8 ∧ c ≠ 0x0A#8 ∧ c ≠ 0xFF#8 ∧ ∀ y, alpha y ≠ c)

/-- R147: `PK.BEGIN` appends the file marker and one colon, 48 bytes, and changes no register. -/
def Obligations.PkBeginWritesTheMarker : Prop :=
  ∀ s : State, s.st.fault = false → encode .pkBegin = [0x21#8] ∧
    exec .pkBegin s = .next { s with txt := s.txt ++
      ("(This file must be converted with BinHex 4.0)\n\n:".toList.map fun ch => BitVec.ofNat 8 ch.toNat) }

/-- R148, R149, with R145 for the line: in each of the three states `PK.BYTE` appends the symbols the rule cuts, wrapped
at 64, and leaves the rule's carry and state; nothing else changes. At most 63 symbols stand on the line (R36 b, part of
the invariant). -/
def Obligations.PkByteCutsSymbols : Prop :=
  ∀ (imm : BitVec 8) (s : State) (ys : List Symbol) (carry : BitVec 6) (st : BitVec 2), s.st.fault = false →
    s.pk.col ≤ 63#7 →
    ((s.pk.st = 0#2 ∧ ys = [imm.extractLsb' 2 6] ∧ carry = imm.extractLsb' 0 2 ++ 0#4 ∧ st = 1#2) ∨
     (s.pk.st = 1#2 ∧ ys = [s.pk.carry ||| (0#2 ++ imm.extractLsb' 4 4)] ∧ carry = imm.extractLsb' 0 4 ++ 0#2 ∧
        st = 2#2) ∨
     (s.pk.st = 2#2 ∧ ys = [s.pk.carry ||| (0#4 ++ imm.extractLsb' 6 2), imm.extractLsb' 0 6] ∧ carry = 0#6 ∧
        st = 0#2)) →
    encode (.pkByte imm) = [0x22#8, imm] ∧
    exec (.pkByte imm) s = .next { s with
      pk := { st := st, carry := carry, col := BitVec.ofNat 7 (wrapSymbols s.pk.col.toNat ys).2 },
      txt := s.txt ++ (wrapSymbols s.pk.col.toNat ys).1 }

/-- R150, R10: `PK.FLUSH` emits the carried bits as one symbol exactly when a group is pending and `PK_FLUSH` is
`ZERO_PAD`, returns to state 0, and is idempotent. At most 63 symbols stand on the line (R36 b, part of the
invariant). -/
def Obligations.PkFlushPadsOrDrops : Prop :=
  ∀ s : State, s.st.fault = false → s.pk.col ≤ 63#7 → encode .pkFlush = [0x23#8] ∧
    (s.pk.st ≠ 0#2 → s.params.pkFlush = .zeroPad →
      exec .pkFlush s = .next { s with
        pk := { st := 0#2, carry := 0#6, col := BitVec.ofNat 7 (wrapSymbols s.pk.col.toNat [s.pk.carry]).2 },
        txt := s.txt ++ (wrapSymbols s.pk.col.toNat [s.pk.carry]).1 }) ∧
    (s.pk.st = 0#2 ∨ s.params.pkFlush = .none →
      exec .pkFlush s = .next { s with pk := { s.pk with st := 0#2, carry := 0#6 } }) ∧
    execAll [.pkFlush, .pkFlush] s = exec .pkFlush s

/-- R151: `PK.END` flushes and appends colon, CR, LF; `PK.COL` is not reset. -/
def Obligations.PkEndClosesTheText : Prop :=
  ∀ s : State, s.st.fault = false → encode .pkEnd = [0x24#8] ∧
    ∃ t, exec .pkFlush s = .next t ∧ exec .pkEnd s = .next { t with txt := t.txt ++ [0x3A#8, 0x0D#8, 0x0A#8] }

/-- R152: from an empty line and state 0, packing `n` bytes and flushing emits `ceil(8n/6)` symbols under `ZERO_PAD` and
`floor(8n/6)` under `NONE`; with `c` symbols `TXT` gains `c + 2 * floor(c / 64)` bytes, each an alphabet character, CR or
LF. -/
def Obligations.PackedTextHasTheStatedLength : Prop :=
  ∀ (x : List Byte) (s : State), s.st.fault = false → s.pk = { st := 0#2, carry := 0#6, col := 0#7 } →
    ∃ t chars, execAll (pkStr x ++ [.pkFlush]) s = .next t ∧ t.txt = s.txt ++ chars ∧
      ∀ c, c = (if s.params.pkFlush = .zeroPad then (8 * x.length + 5) / 6 else 8 * x.length / 6) →
        chars.length = c + 2 * (c / 64) ∧ t.pk.col.toNat = c % 64 ∧
        ∀ ch ∈ chars, ch = 0x0D#8 ∨ ch = 0x0A#8 ∨ ∃ y, alpha y = ch

/-- R153: unpacking what was packed gives it back: under `ZERO_PAD` every byte string, under `NONE` every one whose
length is a multiple of 3, and otherwise all but its last byte. -/
def Obligations.UnpackInvertsPack : Prop :=
  ∀ (x : List Byte) (s : State), s.st.fault = false → s.pk = { st := 0#2, carry := 0#6, col := 0#7 } →
    ∃ t chars, execAll (pkStr x ++ [.pkFlush]) s = .next t ∧ t.txt = s.txt ++ chars ∧
      ∀ u : State, u.st.fault = false → u.ctl.lUpRd = false → u.up = { st := 0#2, carry := 0#8 } →
        ∃ w, execAll (upStr chars) u = .next w ∧ w.st.fault = false ∧
          w.pkd = u.pkd ++ (if s.params.pkFlush = .zeroPad ∨ x.length % 3 = 0 then x else x.dropLast)

/-! ### The unpacker (`44_unpacker.md`) -/

/-- R161, R162, R64: an alphabet character in each of the four states emits the byte the rule gives, to `PKD` or through
the link to the RLE decoder, and leaves the rule's carry and state; nothing else changes. -/
def Obligations.UpCharUnpacksASymbol : Prop :=
  ∀ (y : Symbol) (s : State) (out : List Byte) (carry : BitVec 8) (st : BitVec 2), s.st.fault = false →
    ((s.up.st = 0#2 ∧ out = [] ∧ carry = y ++ 0#2 ∧ st = 1#2) ∨
     (s.up.st = 1#2 ∧ out = [s.up.carry ||| (0#6 ++ y.extractLsb' 4 2)] ∧ carry = y.extractLsb' 0 4 ++ 0#4 ∧ st = 2#2) ∨
     (s.up.st = 2#2 ∧ out = [s.up.carry ||| (0#4 ++ y.extractLsb' 2 4)] ∧ carry = y.extractLsb' 0 2 ++ 0#6 ∧ st = 3#2) ∨
     (s.up.st = 3#2 ∧ out = [s.up.carry ||| (0#2 ++ y)] ∧ carry = 0#8 ∧ st = 0#2)) →
    exec (.upChar (alpha y)) s =
      .next (if s.ctl.lUpRd then { out.foldl rdByte s with up := { st := st, carry := carry } }
        else { s with up := { st := st, carry := carry }, pkd := s.pkd ++ out })

/-- R161, R137, R242 a: CR, LF and `0xFF` change nothing at all; any other byte outside the alphabet raises `BadFormat`
before any state change. -/
def Obligations.UpCharSkipsOrRejectsOtherBytes : Prop :=
  ∀ (imm : BitVec 8) (s : State), s.st.fault = false → encode (.upChar imm) = [0x31#8, imm] ∧
    (imm = 0x0D#8 ∨ imm = 0x0A#8 ∨ imm = 0xFF#8 → exec (.upChar imm) s = .next s) ∧
    (imm ≠ 0x0D#8 ∧ imm ≠ 0x0A#8 ∧ imm ≠ 0xFF#8 ∧ (∀ y, alpha y ≠ imm) →
      exec (.upChar imm) s = .next { s with st := { s.st with fault := true, cause := 1#4 }, frm := [], rle := [],
                                            txt := [], pkd := [], raw := [] })

/-- R163: `UP.END` discards the pending bits in every state and emits nothing. -/
def Obligations.UpEndDropsPendingBits : Prop :=
  ∀ s : State, s.st.fault = false → encode .upEnd = [0x32#8] ∧
    exec .upEnd s = .next { s with up := { st := 0#2, carry := 0#8 } }

/-- R164: from state 0, unlinked, `c` accepted symbols emit `floor(3c/4)` bytes, however many skip bytes stand among
them. -/
def Obligations.UnpackedCountIgnoresSkippedBytes : Prop :=
  ∀ (chars : List Byte) (s : State), s.st.fault = false → s.ctl.lUpRd = false → s.up = { st := 0#2, carry := 0#8 } →
    (∀ ch ∈ chars, classify ch ≠ .invalid) →
    ∃ t, execAll (upStr chars) s = .next t ∧ t.st = s.st ∧
      t.pkd.length = s.pkd.length + 3 * (chars.filter fun ch => classify ch ≠ .skip).length / 4

/-! ### The RLE decoder (`45_rle_decoder.md`) -/

/-- R172, R173: the four cases of `RD.BYTE`: a marker is held, a literal is output and recorded, a count `0x00` outputs
and records the marker, a count `n` repeats the last literal `n - 1` times and leaves it; nothing else changes. -/
def Obligations.RdByteExpands : Prop :=
  ∀ (imm : BitVec 8) (s : State), s.st.fault = false → encode (.rdByte imm) = [0x41#8, imm] ∧
    (s.rd.has = false → imm = 0x90#8 →
      exec (.rdByte imm) s = .next { s with rd := { s.rd with has := true } }) ∧
    (s.rd.has = false → imm ≠ 0x90#8 →
      exec (.rdByte imm) s = .next { s with rd := { has := false, last := imm }, raw := s.raw ++ [imm] }) ∧
    (s.rd.has = true → imm = 0x00#8 →
      exec (.rdByte imm) s = .next { s with rd := { has := false, last := 0x90#8 }, raw := s.raw ++ [0x90#8] }) ∧
    (s.rd.has = true → imm ≠ 0x00#8 →
      exec (.rdByte imm) s = .next { s with rd := { s.rd with has := false },
                                            raw := s.raw ++ List.replicate (imm.toNat - 1) s.rd.last })

/-- R174, R243: `RD.END` raises `BadRunLengthEncoding` exactly when a marker is unconsumed, and otherwise changes
nothing. -/
def Obligations.RdEndChecksTheMarker : Prop :=
  ∀ s : State, s.st.fault = false → encode .rdEnd = [0x42#8] ∧
    (s.rd.has = false → exec .rdEnd s = .next s) ∧
    (s.rd.has = true → exec .rdEnd s = .next { s with st := { s.st with fault := true, cause := 2#4 }, frm := [],
                                                      rle := [], txt := [], pkd := [], raw := [] })

/-! ### The RLE encoder (`46_rle_encoder.md`) -/

/-- R182, R183, with R181 and R63 for what is emitted: the first byte opens a run, an equal byte below the limit is
counted, any other emits the pending run (to `RLE`, or through the link to the packer) and opens the next; nothing else
changes. -/
def Obligations.ReByteCollectsRuns : Prop :=
  ∀ (imm : BitVec 8) (s : State), s.st.fault = false → encode (.reByte imm) = [0x51#8, imm] ∧
    (s.re.haveRun = false →
      exec (.reByte imm) s = .next { s with re := { haveRun := true, cur := imm, cnt := 1#8 } }) ∧
    (s.re.haveRun = true → imm = s.re.cur → s.re.cnt ≠ 255#8 →
      exec (.reByte imm) s = .next { s with re := { s.re with cnt := s.re.cnt + 1 } }) ∧
    (s.re.haveRun = true → imm ≠ s.re.cur ∨ s.re.cnt = 255#8 →
      ∀ e, e = runBytes s.params.reMinRun s.re.cur s.re.cnt →
        exec (.reByte imm) s = .next
          (if s.ctl.lRePk then { e.foldl pkByte s with re := { haveRun := true, cur := imm, cnt := 1#8 } }
           else { s with re := { haveRun := true, cur := imm, cnt := 1#8 }, rle := s.rle ++ e }))

/-- R184: `RE.END` emits the pending run, if there is one, and clears the registers; it is idempotent. -/
def Obligations.ReEndDrainsTheRun : Prop :=
  ∀ s : State, s.st.fault = false → encode .reEnd = [0x52#8] ∧
    (∀ e, e = (if s.re.haveRun then runBytes s.params.reMinRun s.re.cur s.re.cnt else []) →
      exec .reEnd s = .next
        (if s.ctl.lRePk then { e.foldl pkByte s with re := { haveRun := false, cur := 0#8, cnt := 0#8 } }
         else { s with re := { haveRun := false, cur := 0#8, cnt := 0#8 }, rle := s.rle ++ e })) ∧
    execAll [.reEnd, .reEnd] s = exec .reEnd s

/-- R185, R186: for every byte string and every legal `RE_MIN_RUN`, what the encoder emits expands back to the input,
ends in no unconsumed marker, and is at most twice as long. -/
def Obligations.ExpandInvertsRleEncode : Prop :=
  ∀ (x : List Byte) (s : State), s.st.fault = false → s.ctl.lRePk = false → s.params.wellFormed = true →
    s.re = { haveRun := false, cur := 0#8, cnt := 0#8 } →
    ∃ t e, execAll (reStr x ++ [.reEnd]) s = .next t ∧ t.rle = s.rle ++ e ∧ e.length ≤ 2 * x.length ∧
      ∀ u : State, u.st.fault = false → u.rd = { has := false, last := 0x00#8 } →
        ∃ w, execAll (rdStr e ++ [.rdEnd]) u = .next w ∧ w.st.fault = false ∧ w.raw = u.raw ++ x

/-! ### The frame assembler (`47_frame_assembler.md`) -/

/-- R195: in phase `CFG`, `FA.NPUSH` stores the byte at `FA.NAME[FA.NLEN]` while fewer than 255 are there, and from then
on only records 256. -/
def Obligations.FaNpushStoresOrSaturates : Prop :=
  ∀ (imm : BitVec 8) (s : State), s.st.fault = false → s.fa.ph = .cfg → encode (.faNpush imm) = [0x62#8, imm] ∧
    ∃ t, exec (.faNpush imm) s = .next t ∧
      t = { s with fa := { s.fa with name := t.fa.name, nlen := t.fa.nlen } } ∧
      (s.fa.nlen.toNat < 255 → t.fa.nlen.toNat = s.fa.nlen.toNat + 1 ∧
        ∀ k : Fin 255, t.fa.name.get k = if k.val = s.fa.nlen.toNat then imm else s.fa.name.get k) ∧
      (255 ≤ s.fa.nlen.toNat → t.fa.nlen.toNat = 256 ∧ t.fa.name = s.fa.name)

/-- R196 to R200, with R83 and R84 for the commands' bytes, operand most significant byte first: in phase `CFG` each of
the five configuration operations writes its operand to its register, at full width, and nothing else. -/
def Obligations.FaConfigurationWritesItsRegister : Prop :=
  (∀ imm, encode (.faType imm) =
    [0x63#8, imm.extractLsb' 24 8, imm.extractLsb' 16 8, imm.extractLsb' 8 8, imm.extractLsb' 0 8]) ∧
  (∀ imm, encode (.faAuth imm) =
    [0x64#8, imm.extractLsb' 24 8, imm.extractLsb' 16 8, imm.extractLsb' 8 8, imm.extractLsb' 0 8]) ∧
  (∀ imm, encode (.faFlags imm) = [0x65#8, imm.extractLsb' 8 8, imm.extractLsb' 0 8]) ∧
  (∀ imm, encode (.faDlen imm) =
    [0x66#8, imm.extractLsb' 56 8, imm.extractLsb' 48 8, imm.extractLsb' 40 8, imm.extractLsb' 32 8,
      imm.extractLsb' 24 8, imm.extractLsb' 16 8, imm.extractLsb' 8 8, imm.extractLsb' 0 8]) ∧
  (∀ imm, encode (.faRlen imm) =
    [0x67#8, imm.extractLsb' 56 8, imm.extractLsb' 48 8, imm.extractLsb' 40 8, imm.extractLsb' 32 8,
      imm.extractLsb' 24 8, imm.extractLsb' 16 8, imm.extractLsb' 8 8, imm.extractLsb' 0 8]) ∧
  ∀ s : State, s.st.fault = false → s.fa.ph = .cfg →
    (∀ imm, exec (.faType imm) s = .next { s with fa := { s.fa with type := imm } }) ∧
    (∀ imm, exec (.faAuth imm) s = .next { s with fa := { s.fa with auth := imm } }) ∧
    (∀ imm, exec (.faFlags imm) s = .next { s with fa := { s.fa with flags := imm } }) ∧
    (∀ imm, exec (.faDlen imm) s = .next { s with fa := { s.fa with dlen := imm } }) ∧
    (∀ imm, exec (.faRlen imm) s = .next { s with fa := { s.fa with rlen := imm } })

/-- R249: the conditions of `IllegalOp`, raised before any other effect: a frame-assembler configuration operation or
`FA.HDR` outside phase `CFG`, `FA.PUSH` in phase `CFG` or `DONE`, `VF.RUN` without a valid view, and every FPV operation
where the unit is absent (reserved opcodes: `ReservedOpcodeRaisesIllegalOp`). -/
def Obligations.IllegalOpConditions : Prop :=
  ∀ (i : Instr) (s : State), s.st.fault = false →
    ((s.fa.ph ≠ .cfg ∧ (i = .faNclr ∨ (∃ v, i = .faNpush v) ∨ (∃ v, i = .faType v) ∨ (∃ v, i = .faAuth v) ∨
        (∃ v, i = .faFlags v) ∨ (∃ v, i = .faDlen v) ∨ (∃ v, i = .faRlen v) ∨ i = .faHdr)) ∨
     ((s.fa.ph = .cfg ∨ s.fa.ph = .done) ∧ ∃ v, i = .faPush v) ∨
     (s.v.valid = false ∧ i = .vfRun) ∨
     (s.params.hasFpv = false ∧ (i = .fpClr ∨ i = .fpParse ∨ i = .vfRun))) →
    exec i s = .next { s with st := { s.st with fault := true, cause := 9#4 }, frm := [], rle := [], txt := [],
                              pkd := [], raw := [] }

/-- R201, R202, R62: in phase `CFG` with legal sizes `FA.HDR` emits the header and its CRC, then the zero CRC field of
each empty fork it passes, opens the first fork that is not empty or is done, and leaves `CRC.R` 0; nothing else
changes but what the emitted bytes do in the unit they reach. -/
def Obligations.FaHdrEmitsTheHeader : Prop :=
  ∀ (s : State) (h out : List Byte), s.st.fault = false → s.fa.ph = .cfg → s.fa.nlen.toNat ≤ 255 →
    s.fa.dlen.toNat ≤ 0xFFFFFFFF → s.fa.rlen.toNat ≤ 0xFFFFFFFF →
    h = headerBytes (s.fa.name.toList.take s.fa.nlen.toNat) s.fa.type s.fa.auth s.fa.flags s.fa.dlen.toNat
      s.fa.rlen.toNat →
    out = h ++ beBytes 2 (storedCrc h).toNat ++ (if s.fa.dlen = 0#64 then [0x00#8, 0x00#8] else []) ++
      (if s.fa.dlen = 0#64 ∧ s.fa.rlen = 0#64 then [0x00#8, 0x00#8] else []) →
    encode .faHdr = [0x68#8] ∧ h.length = s.fa.nlen.toNat + 20 ∧
    exec .faHdr s = .next { deliverFa s out with
      crc := 0x0000#16,
      fa := { s.fa with
        ph := if s.fa.dlen ≠ 0#64 then .data else if s.fa.rlen ≠ 0#64 then .rsrc else .done,
        rem := if s.fa.dlen ≠ 0#64 then s.fa.dlen.setWidth 32 else s.fa.rlen.setWidth 32 } }

/-- R201, R247, R248, R253: in phase `CFG` the three size checks of `FA.HDR`, in their order, first match wins, before
anything is emitted or written. -/
def Obligations.FaHdrReportsTheFirstSizeFault : Prop :=
  ∀ (s : State) (code : BitVec 4), s.st.fault = false → s.fa.ph = .cfg →
    ((255 < s.fa.nlen.toNat ∧ code = 6#4) ∨
     (s.fa.nlen.toNat ≤ 255 ∧ 0xFFFFFFFF < s.fa.dlen.toNat ∧ code = 7#4) ∨
     (s.fa.nlen.toNat ≤ 255 ∧ s.fa.dlen.toNat ≤ 0xFFFFFFFF ∧ 0xFFFFFFFF < s.fa.rlen.toNat ∧ code = 8#4)) →
    exec .faHdr s = .next { s with st := { s.st with fault := true, cause := code }, frm := [], rle := [], txt := [],
                                   pkd := [], raw := [] }

/-- R203, R202, R62: in phase `DATA` or `RSRC` with bytes to come, `FA.PUSH` emits the byte, takes it into `CRC.R` and
counts it; the last byte of a fork also emits the fork's CRC and, after the data fork, opens the resource fork or passes
over an empty one. -/
def Obligations.FaPushEmitsAndCloses : Prop :=
  ∀ (imm : BitVec 8) (s : State) (c : CrcWord), s.st.fault = false → c = crcByte s.crc imm → s.fa.rem ≠ 0#32 →
    encode (.faPush imm) = [0x69#8, imm] ∧
    (s.fa.ph = .data ∨ s.fa.ph = .rsrc → s.fa.rem ≠ 1#32 →
      exec (.faPush imm) s =
        .next { deliverFa s [imm] with crc := c, fa := { s.fa with rem := s.fa.rem - 1 } }) ∧
    (s.fa.ph = .rsrc → s.fa.rem = 1#32 →
      exec (.faPush imm) s =
        .next { deliverFa s (imm :: beBytes 2 (crcFlush c).toNat) with
          crc := crcFlush c, fa := { s.fa with ph := .done, rem := 0#32 } }) ∧
    (s.fa.ph = .data → s.fa.rem = 1#32 → s.fa.rlen = 0#64 →
      exec (.faPush imm) s =
        .next { deliverFa s (imm :: beBytes 2 (crcFlush c).toNat ++ [0x00#8, 0x00#8]) with
          crc := 0x0000#16, fa := { s.fa with ph := .done, rem := 0#32 } }) ∧
    (s.fa.ph = .data → s.fa.rem = 1#32 → s.fa.rlen ≠ 0#64 →
      exec (.faPush imm) s =
        .next { deliverFa s (imm :: beBytes 2 (crcFlush c).toNat) with
          crc := 0x0000#16, fa := { s.fa with ph := .rsrc, rem := s.fa.rlen.setWidth 32 } })

/-- R204, R191: for a legal configuration, `FA.HDR` and one `FA.PUSH` for each byte of the two forks emit exactly the
frame; the phase is `DONE` afterwards and not before. -/
def Obligations.FrameIsAssembled : Prop :=
  ∀ (s : State) (data rsrc : List Byte), s.st.fault = false → s.fa.ph = .cfg → s.fa.nlen.toNat ≤ 255 →
    s.fa.dlen.toNat = data.length → s.fa.rlen.toNat = rsrc.length →
    data.length ≤ 0xFFFFFFFF → rsrc.length ≤ 0xFFFFFFFF →
    (execAll (.faHdr :: faStr (data ++ rsrc)) s =
      .next { deliverFa s (frame (s.fa.name.toList.take s.fa.nlen.toNat) s.fa.type s.fa.auth s.fa.flags data rsrc) with
        crc := if rsrc = [] then 0x0000#16 else storedCrc rsrc,
        fa := { s.fa with ph := .done, rem := 0#32 } }) ∧
    ∀ k, k < data.length + rsrc.length →
      ∃ t, execAll (.faHdr :: faStr ((data ++ rsrc).take k)) s = .next t ∧ t.fa.ph ≠ .done

/-! ### The frame parser and verifier (`48_frame_parser_verify.md`) -/

/-- R216, R217: on a buffer long enough for its header and for both forks, `FP.PARSE` writes every field of the view, a
fork CRC field of which fewer than 2 bytes remain being absent, and nothing else. `n` is the name length, `d` and `r` the
fork lengths, `p` the offset after the data fork's CRC field. -/
def Obligations.FpParseFillsTheView : Prop :=
  ∀ (s : State) (n : Byte) (tail : List Byte) (l d r p : Nat), s.st.fault = false → s.params.hasFpv = true →
    s.raw = n :: tail → l = s.raw.length → n.toNat + 22 ≤ l →
    d = fieldBE s.raw (n.toNat + 12) 4 → r = fieldBE s.raw (n.toNat + 16) 4 →
    n.toNat + 22 + d ≤ l → p = (if n.toNat + 22 + d + 2 ≤ l then n.toNat + 22 + d + 2 else l) → p + r ≤ l →
    encode .fpParse = [0x71#8] ∧
    exec .fpParse s = .next { s with v :=
      { valid := true, nlen := n,
        type := BitVec.ofNat 32 (fieldBE s.raw (n.toNat + 2) 4),
        auth := BitVec.ofNat 32 (fieldBE s.raw (n.toNat + 6) 4),
        flags := BitVec.ofNat 16 (fieldBE s.raw (n.toNat + 10) 2),
        dlen := BitVec.ofNat 32 d, rlen := BitVec.ofNat 32 r,
        hcrc := BitVec.ofNat 16 (fieldBE s.raw (n.toNat + 20) 2),
        doff := n.toNat + 22, roff := p,
        dcrc := if n.toNat + 22 + d + 2 ≤ l then BitVec.ofNat 16 (fieldBE s.raw (n.toNat + 22 + d) 2) else 0#16,
        rcrc := if p + r + 2 ≤ l then BitVec.ofNat 16 (fieldBE s.raw (p + r) 2) else 0#16,
        dcrcp := decide (n.toNat + 22 + d + 2 ≤ l), rcrcp := decide (p + r + 2 ≤ l) } }

/-- R216, R242 b: `FP.PARSE` raises `BadFormat`, before any `V.*` register is written, when `RAW` is empty, shorter than
the header its first byte announces, or shorter than a fork its header announces. -/
def Obligations.FpParseRejectsTruncation : Prop :=
  ∀ s : State, s.st.fault = false → s.params.hasFpv = true →
    (s.raw = [] ∨
     (∃ n tail, s.raw = n :: tail ∧
       (s.raw.length < n.toNat + 22 ∨
        (∃ d, d = fieldBE s.raw (n.toNat + 12) 4 ∧ n.toNat + 22 ≤ s.raw.length ∧
          (s.raw.length < n.toNat + 22 + d ∨
           s.raw.length < (if n.toNat + 22 + d + 2 ≤ s.raw.length then n.toNat + 22 + d + 2 else s.raw.length) +
             fieldBE s.raw (n.toNat + 16) 4))))) →
    exec .fpParse s = .next { s with st := { s.st with fault := true, cause := 1#4 }, frm := [], rle := [], txt := [],
                                     pkd := [], raw := [] }

/-- R218: with a valid view whose sections all verify, `VF.RUN` leaves the last CRC it computed in `CRC.R` and changes
nothing else; an absent fork is not checked. -/
def Obligations.VfRunPassesAVerifiedFrame : Prop :=
  ∀ s : State, s.st.fault = false → s.params.hasFpv = true → s.v.valid = true →
    verifyCrc (slice s.raw 0 (s.v.nlen.toNat + 20)) s.v.hcrc = true →
    (s.v.dlen ≠ 0#32 → verifyCrc (slice s.raw s.v.doff (s.v.doff + s.v.dlen.toNat)) s.v.dcrc = true) →
    (s.v.rlen ≠ 0#32 → verifyCrc (slice s.raw s.v.roff (s.v.roff + s.v.rlen.toNat)) s.v.rcrc = true) →
    encode .vfRun = [0x72#8] ∧
    exec .vfRun s = .next { s with
      crc := if s.v.rlen ≠ 0#32 then s.v.rcrc else if s.v.dlen ≠ 0#32 then s.v.dcrc else s.v.hcrc }

/-- R218, R244 to R246: the first section that does not verify, in the order header, data fork, resource fork, raises its
own cause, and `CRC.R` holds the CRC computed for that section. -/
def Obligations.VfRunReportsTheFirstMismatch : Prop :=
  ∀ (s : State) (hdr data rsrc sec : List Byte) (code : BitVec 4), s.st.fault = false → s.params.hasFpv = true →
    s.v.valid = true → hdr = slice s.raw 0 (s.v.nlen.toNat + 20) →
    data = slice s.raw s.v.doff (s.v.doff + s.v.dlen.toNat) →
    rsrc = slice s.raw s.v.roff (s.v.roff + s.v.rlen.toNat) →
    ((verifyCrc hdr s.v.hcrc = false ∧ code = 3#4 ∧ sec = hdr) ∨
     (verifyCrc hdr s.v.hcrc = true ∧ s.v.dlen ≠ 0#32 ∧ verifyCrc data s.v.dcrc = false ∧ code = 4#4 ∧ sec = data) ∨
     (verifyCrc hdr s.v.hcrc = true ∧ (s.v.dlen ≠ 0#32 → verifyCrc data s.v.dcrc = true) ∧ s.v.rlen ≠ 0#32 ∧
        verifyCrc rsrc s.v.rcrc = false ∧ code = 5#4 ∧ sec = rsrc)) →
    exec .vfRun s = .next { s with crc := storedCrc sec, st := { s.st with fault := true, cause := code }, frm := [],
                                   rle := [], txt := [], pkd := [], raw := [] }

/-- R191, R216 to R218: a frame in `RAW`, whatever follows it, parses to its own fields, with both fork CRC fields
present, and verifies. -/
def Obligations.ParseInvertsTheFrame : Prop :=
  ∀ (name data rsrc extra : List Byte) (type auth : BitVec 32) (flags : BitVec 16) (s : State),
    s.st.fault = false → s.params.hasFpv = true → name.length ≤ 255 → data.length ≤ 0xFFFFFFFF →
    rsrc.length ≤ 0xFFFFFFFF → s.raw = frame name type auth flags data rsrc ++ extra →
    ∃ t, execAll [.fpParse, .vfRun] s = .next t ∧ t = { s with v := t.v, crc := t.crc } ∧
      t.v.valid = true ∧ viewName t.v t.raw = name ∧ t.v.type = type ∧ t.v.auth = auth ∧ t.v.flags = flags ∧
      t.v.dlen.toNat = data.length ∧ viewData t.v t.raw = data ∧ t.v.rlen.toNat = rsrc.length ∧
      viewRsrc t.v t.raw = rsrc ∧ t.v.dcrcp = true ∧ t.v.rcrcp = true

/-- R219: a frame with exactly one bit changed, followed by nothing, is detected: in the data fork's bytes as cause 4, in
the resource fork's as cause 5, in header bytes `1 .. n + 20` exclusive as `BadFormat` or cause 3. -/
def Obligations.SingleBitFlipsAreDetected : Prop :=
  ∀ (name data rsrc : List Byte) (type auth : BitVec 32) (flags : BitVec 16) (s : State) (k : Nat) (j : Nat) (b : Byte),
    s.st.fault = false → s.params.hasFpv = true → name.length ≤ 255 → data.length ≤ 0xFFFFFFFF →
    rsrc.length ≤ 0xFFFFFFFF → (frame name type auth flags data rsrc)[k]? = some b → j < 8 →
    s.raw = (frame name type auth flags data rsrc).set k (b ^^^ (1#8 <<< j)) →
    ∃ t, execAll [.fpParse, .vfRun] s = .next t ∧
      (name.length + 22 ≤ k ∧ k < name.length + 22 + data.length → t.st.fault = true ∧ t.st.cause = 4#4) ∧
      (name.length + 24 + data.length ≤ k ∧ k < name.length + 24 + data.length + rsrc.length →
        t.st.fault = true ∧ t.st.cause = 5#4) ∧
      (1 ≤ k ∧ k < name.length + 20 → t.st.fault = true ∧ (t.st.cause = 1#4 ∨ t.st.cause = 3#4))

/-! ### Whole messages (`49_pipelines.md`) -/

/-- R235 (with R231, R232, R234), for `PK_FLUSH = ZERO_PAD` and any legal `RE_MIN_RUN`: ENCODE of a legal configuration
completes (`PK.END` executed without a fault in phase `DONE`) with a framed text whose payload holds no colon, and DECODE
of that payload with verification, on any machine that has the unit FPV, completes (`FP.PARSE` and `VF.RUN` executed
without a fault) with `RAW` the frame and every field recovered. -/
def Obligations.DecodeRecoversWhatEncodeWrote : Prop :=
  ∀ (a : EncodeArgs) (s : State) (name : List Byte), s.params.wellFormed = true → s.params.pkFlush = .zeroPad →
    name = a.name.getD defaultName → name.length ≤ 255 → a.data.length ≤ 0xFFFFFFFF → a.rsrc.length ≤ 0xFFFFFFFF →
    ∃ t payload, execAll (encodeSequence a) s = .next t ∧ s.EncodeComplete (encodeSequence a) t ∧
      t.txt = fileMarker ++ [Config.colon] ++ payload ++ [Config.colon, Config.cr, Config.lf] ∧
      Config.colon ∉ payload ∧
      ∀ u : State, u.params.hasFpv = true →
        ∃ w, execAll (decodeSequence payload true) u = .next w ∧
          u.DecodeComplete true (decodeSequence payload true) w ∧
          w.raw = frame name (a.type.getD 0#32) (a.auth.getD 0#32) (a.flags.getD 0#16) a.data a.rsrc ∧
          viewName w.v w.raw = name ∧ w.v.type = a.type.getD 0#32 ∧ w.v.auth = a.auth.getD 0#32 ∧
          w.v.flags = a.flags.getD 0#16 ∧ w.v.dlen.toNat = a.data.length ∧ viewData w.v w.raw = a.data ∧
          w.v.rlen.toNat = a.rsrc.length ∧ viewRsrc w.v w.raw = a.rsrc ∧ w.v.dcrcp = true ∧ w.v.rcrcp = true
end

