-- ==== Sys2Proof/Laws/Alphabet.lean ====
section
/-! SUPPORT. Facts about the alphabet tables that hold by looking at the 64 entries (rules R135 to R137). -/

namespace Sys2Proof.Machine

/-- `ALPHA` has an entry for every symbol (R135). -/
theorem alphaTable_length : alphaTable.length = 64 := rfl

/-- Every character of the alphabet is classified as its symbol. -/
theorem classify_alpha (y : Symbol) : classify (alpha y) = .sym y := by
  have h : ∀ y : BitVec 6, classify (alpha y) = .sym y := by decide +kernel
  exact h y

/-- A byte classified as a symbol is that symbol's character. -/
theorem alpha_of_classify {c : Byte} {y : Symbol} (h : classify c = .sym y) : alpha y = c := by
  have key : ∀ c : BitVec 8, (match classify c with | .sym y => alpha y == c | .skip => true | .invalid => true) = true := by
    decide +kernel
  have := key c
  rw [h] at this
  simpa using this

/-- CR and LF are skipped. -/
theorem classify_cr : classify Config.cr = .skip := by decide
theorem classify_lf : classify Config.lf = .skip := by decide

end Sys2Proof.Machine
end

