-- ==== Sys2Proof/Laws/Bytes.lean ====
section
/-! SUPPORT. Big-endian bytes: `beBytes` and `fromBE` are inverse, and their lengths (rule R13). -/

namespace Sys2Proof

@[simp] theorem beBytes_length (n v : Nat) : (beBytes n v).length = n := by
  induction n with
  | zero => rfl
  | succ n ih => simp [beBytes, ih]

/-- The fold of `fromBE` from any start. -/
theorem fromBE_foldl (bytes : List Byte) (a : Nat) :
    bytes.foldl (fun acc b => acc * 256 + b.toNat) a = a * 256 ^ bytes.length + fromBE bytes := by
  induction bytes generalizing a with
  | nil => simp [fromBE]
  | cons b bs ih =>
    simp only [fromBE, List.foldl_cons, List.length_cons]
    rw [ih, ih (0 * 256 + b.toNat), pow_succ]
    ring

theorem fromBE_cons (b : Byte) (bs : List Byte) : fromBE (b :: bs) = b.toNat * 256 ^ bs.length + fromBE bs := by
  simp only [fromBE, List.foldl_cons]
  rw [fromBE_foldl]
  simp [fromBE]

@[simp] theorem fromBE_nil : fromBE [] = 0 := rfl

theorem fromBE_append (a b : List Byte) : fromBE (a ++ b) = fromBE a * 256 ^ b.length + fromBE b := by
  unfold fromBE
  rw [List.foldl_append, fromBE_foldl]
  rfl

theorem fromBE_lt (bytes : List Byte) : fromBE bytes < 256 ^ bytes.length := by
  induction bytes with
  | nil => simp
  | cons b bs ih =>
    rw [fromBE_cons, List.length_cons, pow_succ]
    have := b.isLt
    nlinarith [show 0 < 256 ^ bs.length from Nat.pow_pos (by norm_num)]

/-- Reading back `n` big-endian bytes of `v` gives `v` modulo `256 ^ n`. -/
theorem fromBE_beBytes (n v : Nat) : fromBE (beBytes n v) = v % 256 ^ n := by
  induction n with
  | zero => simp [beBytes, Nat.mod_one]
  | succ n ih =>
    rw [beBytes, fromBE_cons, ih, beBytes_length, BitVec.toNat_ofNat]
    rw [show (256 : Nat) ^ (n + 1) = 256 ^ n * 256 from pow_succ 256 n, Nat.mod_mul]
    norm_num
    ring

/-- Writing back the number of `n` bytes gives the bytes. -/
theorem beBytes_fromBE (bytes : List Byte) : beBytes bytes.length (fromBE bytes) = bytes := by
  induction bytes with
  | nil => rfl
  | cons b bs ih =>
    have hlt := fromBE_lt bs
    have hpos : 0 < 256 ^ bs.length := Nat.pow_pos (by norm_num)
    rw [List.length_cons, beBytes, fromBE_cons]
    congr 1
    · rw [Nat.mul_comm, Nat.mul_add_div hpos, Nat.div_eq_of_lt hlt]
      simp
    · have h : ∀ n k v : Nat, beBytes n (k * 256 ^ n + v) = beBytes n v := by
        intro n
        induction n with
        | zero => intros; rfl
        | succ n ihn =>
          intro k v
          rw [beBytes, beBytes]
          congr 1
          · apply BitVec.eq_of_toNat_eq
            rw [BitVec.toNat_ofNat, BitVec.toNat_ofNat, pow_succ,
              show k * (256 ^ n * 256) + v = 256 ^ n * (k * 256) + v by ring,
              Nat.mul_add_div (Nat.pow_pos (by norm_num)), Nat.add_comm, Nat.add_mul_mod_self_right]
          · rw [pow_succ, show k * (256 ^ n * 256) + v = (k * 256) * 256 ^ n + v by ring]
            exact ihn _ _
      rw [h, ih]

end Sys2Proof
end

