-- ==== Sys2Proof/Laws/State.lean ====
section
/-! SUPPORT. One lemma per field per update of `State`, each true by `rfl`, so that no later proof unfolds a record
update. -/

namespace Sys2Proof.Machine

section
variable (s : State) (x : List Byte)
@[simp] theorem State.setPort_params : (s.setPort x).params = s.params := rfl
@[simp] theorem State.setPort_port : (s.setPort x).port = x := rfl
@[simp] theorem State.setPort_ctl : (s.setPort x).ctl = s.ctl := rfl
@[simp] theorem State.setPort_st : (s.setPort x).st = s.st := rfl
@[simp] theorem State.setPort_crc : (s.setPort x).crc = s.crc := rfl
@[simp] theorem State.setPort_pk : (s.setPort x).pk = s.pk := rfl
@[simp] theorem State.setPort_up : (s.setPort x).up = s.up := rfl
@[simp] theorem State.setPort_rd : (s.setPort x).rd = s.rd := rfl
@[simp] theorem State.setPort_re : (s.setPort x).re = s.re := rfl
@[simp] theorem State.setPort_fa : (s.setPort x).fa = s.fa := rfl
@[simp] theorem State.setPort_v : (s.setPort x).v = s.v := rfl
@[simp] theorem State.setPort_frm : (s.setPort x).frm = s.frm := rfl
@[simp] theorem State.setPort_rle : (s.setPort x).rle = s.rle := rfl
@[simp] theorem State.setPort_txt : (s.setPort x).txt = s.txt := rfl
@[simp] theorem State.setPort_pkd : (s.setPort x).pkd = s.pkd := rfl
@[simp] theorem State.setPort_raw : (s.setPort x).raw = s.raw := rfl
@[simp] theorem State.setPort_self : s.setPort s.port = s := rfl
@[simp] theorem State.setPort_setPort (y : List Byte) : (s.setPort x).setPort y = s.setPort y := rfl
end

section
variable (s : State) (x : CtlReg)
@[simp] theorem State.setCtl_params : (s.setCtl x).params = s.params := rfl
@[simp] theorem State.setCtl_port : (s.setCtl x).port = s.port := rfl
@[simp] theorem State.setCtl_ctl : (s.setCtl x).ctl = x := rfl
@[simp] theorem State.setCtl_st : (s.setCtl x).st = s.st := rfl
@[simp] theorem State.setCtl_crc : (s.setCtl x).crc = s.crc := rfl
@[simp] theorem State.setCtl_pk : (s.setCtl x).pk = s.pk := rfl
@[simp] theorem State.setCtl_up : (s.setCtl x).up = s.up := rfl
@[simp] theorem State.setCtl_rd : (s.setCtl x).rd = s.rd := rfl
@[simp] theorem State.setCtl_re : (s.setCtl x).re = s.re := rfl
@[simp] theorem State.setCtl_fa : (s.setCtl x).fa = s.fa := rfl
@[simp] theorem State.setCtl_v : (s.setCtl x).v = s.v := rfl
@[simp] theorem State.setCtl_frm : (s.setCtl x).frm = s.frm := rfl
@[simp] theorem State.setCtl_rle : (s.setCtl x).rle = s.rle := rfl
@[simp] theorem State.setCtl_txt : (s.setCtl x).txt = s.txt := rfl
@[simp] theorem State.setCtl_pkd : (s.setCtl x).pkd = s.pkd := rfl
@[simp] theorem State.setCtl_raw : (s.setCtl x).raw = s.raw := rfl
@[simp] theorem State.setCtl_self : s.setCtl s.ctl = s := rfl
@[simp] theorem State.setCtl_setCtl (y : CtlReg) : (s.setCtl x).setCtl y = s.setCtl y := rfl
end

section
variable (s : State) (x : StReg)
@[simp] theorem State.setSt_params : (s.setSt x).params = s.params := rfl
@[simp] theorem State.setSt_port : (s.setSt x).port = s.port := rfl
@[simp] theorem State.setSt_ctl : (s.setSt x).ctl = s.ctl := rfl
@[simp] theorem State.setSt_st : (s.setSt x).st = x := rfl
@[simp] theorem State.setSt_crc : (s.setSt x).crc = s.crc := rfl
@[simp] theorem State.setSt_pk : (s.setSt x).pk = s.pk := rfl
@[simp] theorem State.setSt_up : (s.setSt x).up = s.up := rfl
@[simp] theorem State.setSt_rd : (s.setSt x).rd = s.rd := rfl
@[simp] theorem State.setSt_re : (s.setSt x).re = s.re := rfl
@[simp] theorem State.setSt_fa : (s.setSt x).fa = s.fa := rfl
@[simp] theorem State.setSt_v : (s.setSt x).v = s.v := rfl
@[simp] theorem State.setSt_frm : (s.setSt x).frm = s.frm := rfl
@[simp] theorem State.setSt_rle : (s.setSt x).rle = s.rle := rfl
@[simp] theorem State.setSt_txt : (s.setSt x).txt = s.txt := rfl
@[simp] theorem State.setSt_pkd : (s.setSt x).pkd = s.pkd := rfl
@[simp] theorem State.setSt_raw : (s.setSt x).raw = s.raw := rfl
@[simp] theorem State.setSt_self : s.setSt s.st = s := rfl
@[simp] theorem State.setSt_setSt (y : StReg) : (s.setSt x).setSt y = s.setSt y := rfl
end

section
variable (s : State) (x : CrcWord)
@[simp] theorem State.setCrc_params : (s.setCrc x).params = s.params := rfl
@[simp] theorem State.setCrc_port : (s.setCrc x).port = s.port := rfl
@[simp] theorem State.setCrc_ctl : (s.setCrc x).ctl = s.ctl := rfl
@[simp] theorem State.setCrc_st : (s.setCrc x).st = s.st := rfl
@[simp] theorem State.setCrc_crc : (s.setCrc x).crc = x := rfl
@[simp] theorem State.setCrc_pk : (s.setCrc x).pk = s.pk := rfl
@[simp] theorem State.setCrc_up : (s.setCrc x).up = s.up := rfl
@[simp] theorem State.setCrc_rd : (s.setCrc x).rd = s.rd := rfl
@[simp] theorem State.setCrc_re : (s.setCrc x).re = s.re := rfl
@[simp] theorem State.setCrc_fa : (s.setCrc x).fa = s.fa := rfl
@[simp] theorem State.setCrc_v : (s.setCrc x).v = s.v := rfl
@[simp] theorem State.setCrc_frm : (s.setCrc x).frm = s.frm := rfl
@[simp] theorem State.setCrc_rle : (s.setCrc x).rle = s.rle := rfl
@[simp] theorem State.setCrc_txt : (s.setCrc x).txt = s.txt := rfl
@[simp] theorem State.setCrc_pkd : (s.setCrc x).pkd = s.pkd := rfl
@[simp] theorem State.setCrc_raw : (s.setCrc x).raw = s.raw := rfl
@[simp] theorem State.setCrc_self : s.setCrc s.crc = s := rfl
@[simp] theorem State.setCrc_setCrc (y : CrcWord) : (s.setCrc x).setCrc y = s.setCrc y := rfl
end

section
variable (s : State) (x : PkRegs)
@[simp] theorem State.setPk_params : (s.setPk x).params = s.params := rfl
@[simp] theorem State.setPk_port : (s.setPk x).port = s.port := rfl
@[simp] theorem State.setPk_ctl : (s.setPk x).ctl = s.ctl := rfl
@[simp] theorem State.setPk_st : (s.setPk x).st = s.st := rfl
@[simp] theorem State.setPk_crc : (s.setPk x).crc = s.crc := rfl
@[simp] theorem State.setPk_pk : (s.setPk x).pk = x := rfl
@[simp] theorem State.setPk_up : (s.setPk x).up = s.up := rfl
@[simp] theorem State.setPk_rd : (s.setPk x).rd = s.rd := rfl
@[simp] theorem State.setPk_re : (s.setPk x).re = s.re := rfl
@[simp] theorem State.setPk_fa : (s.setPk x).fa = s.fa := rfl
@[simp] theorem State.setPk_v : (s.setPk x).v = s.v := rfl
@[simp] theorem State.setPk_frm : (s.setPk x).frm = s.frm := rfl
@[simp] theorem State.setPk_rle : (s.setPk x).rle = s.rle := rfl
@[simp] theorem State.setPk_txt : (s.setPk x).txt = s.txt := rfl
@[simp] theorem State.setPk_pkd : (s.setPk x).pkd = s.pkd := rfl
@[simp] theorem State.setPk_raw : (s.setPk x).raw = s.raw := rfl
@[simp] theorem State.setPk_self : s.setPk s.pk = s := rfl
@[simp] theorem State.setPk_setPk (y : PkRegs) : (s.setPk x).setPk y = s.setPk y := rfl
end

section
variable (s : State) (x : UpRegs)
@[simp] theorem State.setUp_params : (s.setUp x).params = s.params := rfl
@[simp] theorem State.setUp_port : (s.setUp x).port = s.port := rfl
@[simp] theorem State.setUp_ctl : (s.setUp x).ctl = s.ctl := rfl
@[simp] theorem State.setUp_st : (s.setUp x).st = s.st := rfl
@[simp] theorem State.setUp_crc : (s.setUp x).crc = s.crc := rfl
@[simp] theorem State.setUp_pk : (s.setUp x).pk = s.pk := rfl
@[simp] theorem State.setUp_up : (s.setUp x).up = x := rfl
@[simp] theorem State.setUp_rd : (s.setUp x).rd = s.rd := rfl
@[simp] theorem State.setUp_re : (s.setUp x).re = s.re := rfl
@[simp] theorem State.setUp_fa : (s.setUp x).fa = s.fa := rfl
@[simp] theorem State.setUp_v : (s.setUp x).v = s.v := rfl
@[simp] theorem State.setUp_frm : (s.setUp x).frm = s.frm := rfl
@[simp] theorem State.setUp_rle : (s.setUp x).rle = s.rle := rfl
@[simp] theorem State.setUp_txt : (s.setUp x).txt = s.txt := rfl
@[simp] theorem State.setUp_pkd : (s.setUp x).pkd = s.pkd := rfl
@[simp] theorem State.setUp_raw : (s.setUp x).raw = s.raw := rfl
@[simp] theorem State.setUp_self : s.setUp s.up = s := rfl
@[simp] theorem State.setUp_setUp (y : UpRegs) : (s.setUp x).setUp y = s.setUp y := rfl
end

section
variable (s : State) (x : RdRegs)
@[simp] theorem State.setRd_params : (s.setRd x).params = s.params := rfl
@[simp] theorem State.setRd_port : (s.setRd x).port = s.port := rfl
@[simp] theorem State.setRd_ctl : (s.setRd x).ctl = s.ctl := rfl
@[simp] theorem State.setRd_st : (s.setRd x).st = s.st := rfl
@[simp] theorem State.setRd_crc : (s.setRd x).crc = s.crc := rfl
@[simp] theorem State.setRd_pk : (s.setRd x).pk = s.pk := rfl
@[simp] theorem State.setRd_up : (s.setRd x).up = s.up := rfl
@[simp] theorem State.setRd_rd : (s.setRd x).rd = x := rfl
@[simp] theorem State.setRd_re : (s.setRd x).re = s.re := rfl
@[simp] theorem State.setRd_fa : (s.setRd x).fa = s.fa := rfl
@[simp] theorem State.setRd_v : (s.setRd x).v = s.v := rfl
@[simp] theorem State.setRd_frm : (s.setRd x).frm = s.frm := rfl
@[simp] theorem State.setRd_rle : (s.setRd x).rle = s.rle := rfl
@[simp] theorem State.setRd_txt : (s.setRd x).txt = s.txt := rfl
@[simp] theorem State.setRd_pkd : (s.setRd x).pkd = s.pkd := rfl
@[simp] theorem State.setRd_raw : (s.setRd x).raw = s.raw := rfl
@[simp] theorem State.setRd_self : s.setRd s.rd = s := rfl
@[simp] theorem State.setRd_setRd (y : RdRegs) : (s.setRd x).setRd y = s.setRd y := rfl
end

section
variable (s : State) (x : ReRegs)
@[simp] theorem State.setRe_params : (s.setRe x).params = s.params := rfl
@[simp] theorem State.setRe_port : (s.setRe x).port = s.port := rfl
@[simp] theorem State.setRe_ctl : (s.setRe x).ctl = s.ctl := rfl
@[simp] theorem State.setRe_st : (s.setRe x).st = s.st := rfl
@[simp] theorem State.setRe_crc : (s.setRe x).crc = s.crc := rfl
@[simp] theorem State.setRe_pk : (s.setRe x).pk = s.pk := rfl
@[simp] theorem State.setRe_up : (s.setRe x).up = s.up := rfl
@[simp] theorem State.setRe_rd : (s.setRe x).rd = s.rd := rfl
@[simp] theorem State.setRe_re : (s.setRe x).re = x := rfl
@[simp] theorem State.setRe_fa : (s.setRe x).fa = s.fa := rfl
@[simp] theorem State.setRe_v : (s.setRe x).v = s.v := rfl
@[simp] theorem State.setRe_frm : (s.setRe x).frm = s.frm := rfl
@[simp] theorem State.setRe_rle : (s.setRe x).rle = s.rle := rfl
@[simp] theorem State.setRe_txt : (s.setRe x).txt = s.txt := rfl
@[simp] theorem State.setRe_pkd : (s.setRe x).pkd = s.pkd := rfl
@[simp] theorem State.setRe_raw : (s.setRe x).raw = s.raw := rfl
@[simp] theorem State.setRe_self : s.setRe s.re = s := rfl
@[simp] theorem State.setRe_setRe (y : ReRegs) : (s.setRe x).setRe y = s.setRe y := rfl
end

section
variable (s : State) (x : FaRegs)
@[simp] theorem State.setFa_params : (s.setFa x).params = s.params := rfl
@[simp] theorem State.setFa_port : (s.setFa x).port = s.port := rfl
@[simp] theorem State.setFa_ctl : (s.setFa x).ctl = s.ctl := rfl
@[simp] theorem State.setFa_st : (s.setFa x).st = s.st := rfl
@[simp] theorem State.setFa_crc : (s.setFa x).crc = s.crc := rfl
@[simp] theorem State.setFa_pk : (s.setFa x).pk = s.pk := rfl
@[simp] theorem State.setFa_up : (s.setFa x).up = s.up := rfl
@[simp] theorem State.setFa_rd : (s.setFa x).rd = s.rd := rfl
@[simp] theorem State.setFa_re : (s.setFa x).re = s.re := rfl
@[simp] theorem State.setFa_fa : (s.setFa x).fa = x := rfl
@[simp] theorem State.setFa_v : (s.setFa x).v = s.v := rfl
@[simp] theorem State.setFa_frm : (s.setFa x).frm = s.frm := rfl
@[simp] theorem State.setFa_rle : (s.setFa x).rle = s.rle := rfl
@[simp] theorem State.setFa_txt : (s.setFa x).txt = s.txt := rfl
@[simp] theorem State.setFa_pkd : (s.setFa x).pkd = s.pkd := rfl
@[simp] theorem State.setFa_raw : (s.setFa x).raw = s.raw := rfl
@[simp] theorem State.setFa_self : s.setFa s.fa = s := rfl
@[simp] theorem State.setFa_setFa (y : FaRegs) : (s.setFa x).setFa y = s.setFa y := rfl
end

section
variable (s : State) (x : ViewRegs)
@[simp] theorem State.setV_params : (s.setV x).params = s.params := rfl
@[simp] theorem State.setV_port : (s.setV x).port = s.port := rfl
@[simp] theorem State.setV_ctl : (s.setV x).ctl = s.ctl := rfl
@[simp] theorem State.setV_st : (s.setV x).st = s.st := rfl
@[simp] theorem State.setV_crc : (s.setV x).crc = s.crc := rfl
@[simp] theorem State.setV_pk : (s.setV x).pk = s.pk := rfl
@[simp] theorem State.setV_up : (s.setV x).up = s.up := rfl
@[simp] theorem State.setV_rd : (s.setV x).rd = s.rd := rfl
@[simp] theorem State.setV_re : (s.setV x).re = s.re := rfl
@[simp] theorem State.setV_fa : (s.setV x).fa = s.fa := rfl
@[simp] theorem State.setV_v : (s.setV x).v = x := rfl
@[simp] theorem State.setV_frm : (s.setV x).frm = s.frm := rfl
@[simp] theorem State.setV_rle : (s.setV x).rle = s.rle := rfl
@[simp] theorem State.setV_txt : (s.setV x).txt = s.txt := rfl
@[simp] theorem State.setV_pkd : (s.setV x).pkd = s.pkd := rfl
@[simp] theorem State.setV_raw : (s.setV x).raw = s.raw := rfl
@[simp] theorem State.setV_self : s.setV s.v = s := rfl
@[simp] theorem State.setV_setV (y : ViewRegs) : (s.setV x).setV y = s.setV y := rfl
end

section
variable (s : State) (x : List Byte)
@[simp] theorem State.setFrm_params : (s.setFrm x).params = s.params := rfl
@[simp] theorem State.setFrm_port : (s.setFrm x).port = s.port := rfl
@[simp] theorem State.setFrm_ctl : (s.setFrm x).ctl = s.ctl := rfl
@[simp] theorem State.setFrm_st : (s.setFrm x).st = s.st := rfl
@[simp] theorem State.setFrm_crc : (s.setFrm x).crc = s.crc := rfl
@[simp] theorem State.setFrm_pk : (s.setFrm x).pk = s.pk := rfl
@[simp] theorem State.setFrm_up : (s.setFrm x).up = s.up := rfl
@[simp] theorem State.setFrm_rd : (s.setFrm x).rd = s.rd := rfl
@[simp] theorem State.setFrm_re : (s.setFrm x).re = s.re := rfl
@[simp] theorem State.setFrm_fa : (s.setFrm x).fa = s.fa := rfl
@[simp] theorem State.setFrm_v : (s.setFrm x).v = s.v := rfl
@[simp] theorem State.setFrm_frm : (s.setFrm x).frm = x := rfl
@[simp] theorem State.setFrm_rle : (s.setFrm x).rle = s.rle := rfl
@[simp] theorem State.setFrm_txt : (s.setFrm x).txt = s.txt := rfl
@[simp] theorem State.setFrm_pkd : (s.setFrm x).pkd = s.pkd := rfl
@[simp] theorem State.setFrm_raw : (s.setFrm x).raw = s.raw := rfl
@[simp] theorem State.setFrm_self : s.setFrm s.frm = s := rfl
@[simp] theorem State.setFrm_setFrm (y : List Byte) : (s.setFrm x).setFrm y = s.setFrm y := rfl
end

section
variable (s : State) (x : List Byte)
@[simp] theorem State.setRle_params : (s.setRle x).params = s.params := rfl
@[simp] theorem State.setRle_port : (s.setRle x).port = s.port := rfl
@[simp] theorem State.setRle_ctl : (s.setRle x).ctl = s.ctl := rfl
@[simp] theorem State.setRle_st : (s.setRle x).st = s.st := rfl
@[simp] theorem State.setRle_crc : (s.setRle x).crc = s.crc := rfl
@[simp] theorem State.setRle_pk : (s.setRle x).pk = s.pk := rfl
@[simp] theorem State.setRle_up : (s.setRle x).up = s.up := rfl
@[simp] theorem State.setRle_rd : (s.setRle x).rd = s.rd := rfl
@[simp] theorem State.setRle_re : (s.setRle x).re = s.re := rfl
@[simp] theorem State.setRle_fa : (s.setRle x).fa = s.fa := rfl
@[simp] theorem State.setRle_v : (s.setRle x).v = s.v := rfl
@[simp] theorem State.setRle_frm : (s.setRle x).frm = s.frm := rfl
@[simp] theorem State.setRle_rle : (s.setRle x).rle = x := rfl
@[simp] theorem State.setRle_txt : (s.setRle x).txt = s.txt := rfl
@[simp] theorem State.setRle_pkd : (s.setRle x).pkd = s.pkd := rfl
@[simp] theorem State.setRle_raw : (s.setRle x).raw = s.raw := rfl
@[simp] theorem State.setRle_self : s.setRle s.rle = s := rfl
@[simp] theorem State.setRle_setRle (y : List Byte) : (s.setRle x).setRle y = s.setRle y := rfl
end

section
variable (s : State) (x : List Byte)
@[simp] theorem State.setTxt_params : (s.setTxt x).params = s.params := rfl
@[simp] theorem State.setTxt_port : (s.setTxt x).port = s.port := rfl
@[simp] theorem State.setTxt_ctl : (s.setTxt x).ctl = s.ctl := rfl
@[simp] theorem State.setTxt_st : (s.setTxt x).st = s.st := rfl
@[simp] theorem State.setTxt_crc : (s.setTxt x).crc = s.crc := rfl
@[simp] theorem State.setTxt_pk : (s.setTxt x).pk = s.pk := rfl
@[simp] theorem State.setTxt_up : (s.setTxt x).up = s.up := rfl
@[simp] theorem State.setTxt_rd : (s.setTxt x).rd = s.rd := rfl
@[simp] theorem State.setTxt_re : (s.setTxt x).re = s.re := rfl
@[simp] theorem State.setTxt_fa : (s.setTxt x).fa = s.fa := rfl
@[simp] theorem State.setTxt_v : (s.setTxt x).v = s.v := rfl
@[simp] theorem State.setTxt_frm : (s.setTxt x).frm = s.frm := rfl
@[simp] theorem State.setTxt_rle : (s.setTxt x).rle = s.rle := rfl
@[simp] theorem State.setTxt_txt : (s.setTxt x).txt = x := rfl
@[simp] theorem State.setTxt_pkd : (s.setTxt x).pkd = s.pkd := rfl
@[simp] theorem State.setTxt_raw : (s.setTxt x).raw = s.raw := rfl
@[simp] theorem State.setTxt_self : s.setTxt s.txt = s := rfl
@[simp] theorem State.setTxt_setTxt (y : List Byte) : (s.setTxt x).setTxt y = s.setTxt y := rfl
end

section
variable (s : State) (x : List Byte)
@[simp] theorem State.setPkd_params : (s.setPkd x).params = s.params := rfl
@[simp] theorem State.setPkd_port : (s.setPkd x).port = s.port := rfl
@[simp] theorem State.setPkd_ctl : (s.setPkd x).ctl = s.ctl := rfl
@[simp] theorem State.setPkd_st : (s.setPkd x).st = s.st := rfl
@[simp] theorem State.setPkd_crc : (s.setPkd x).crc = s.crc := rfl
@[simp] theorem State.setPkd_pk : (s.setPkd x).pk = s.pk := rfl
@[simp] theorem State.setPkd_up : (s.setPkd x).up = s.up := rfl
@[simp] theorem State.setPkd_rd : (s.setPkd x).rd = s.rd := rfl
@[simp] theorem State.setPkd_re : (s.setPkd x).re = s.re := rfl
@[simp] theorem State.setPkd_fa : (s.setPkd x).fa = s.fa := rfl
@[simp] theorem State.setPkd_v : (s.setPkd x).v = s.v := rfl
@[simp] theorem State.setPkd_frm : (s.setPkd x).frm = s.frm := rfl
@[simp] theorem State.setPkd_rle : (s.setPkd x).rle = s.rle := rfl
@[simp] theorem State.setPkd_txt : (s.setPkd x).txt = s.txt := rfl
@[simp] theorem State.setPkd_pkd : (s.setPkd x).pkd = x := rfl
@[simp] theorem State.setPkd_raw : (s.setPkd x).raw = s.raw := rfl
@[simp] theorem State.setPkd_self : s.setPkd s.pkd = s := rfl
@[simp] theorem State.setPkd_setPkd (y : List Byte) : (s.setPkd x).setPkd y = s.setPkd y := rfl
end

section
variable (s : State) (x : List Byte)
@[simp] theorem State.setRaw_params : (s.setRaw x).params = s.params := rfl
@[simp] theorem State.setRaw_port : (s.setRaw x).port = s.port := rfl
@[simp] theorem State.setRaw_ctl : (s.setRaw x).ctl = s.ctl := rfl
@[simp] theorem State.setRaw_st : (s.setRaw x).st = s.st := rfl
@[simp] theorem State.setRaw_crc : (s.setRaw x).crc = s.crc := rfl
@[simp] theorem State.setRaw_pk : (s.setRaw x).pk = s.pk := rfl
@[simp] theorem State.setRaw_up : (s.setRaw x).up = s.up := rfl
@[simp] theorem State.setRaw_rd : (s.setRaw x).rd = s.rd := rfl
@[simp] theorem State.setRaw_re : (s.setRaw x).re = s.re := rfl
@[simp] theorem State.setRaw_fa : (s.setRaw x).fa = s.fa := rfl
@[simp] theorem State.setRaw_v : (s.setRaw x).v = s.v := rfl
@[simp] theorem State.setRaw_frm : (s.setRaw x).frm = s.frm := rfl
@[simp] theorem State.setRaw_rle : (s.setRaw x).rle = s.rle := rfl
@[simp] theorem State.setRaw_txt : (s.setRaw x).txt = s.txt := rfl
@[simp] theorem State.setRaw_pkd : (s.setRaw x).pkd = s.pkd := rfl
@[simp] theorem State.setRaw_raw : (s.setRaw x).raw = x := rfl
@[simp] theorem State.setRaw_self : s.setRaw s.raw = s := rfl
@[simp] theorem State.setRaw_setRaw (y : List Byte) : (s.setRaw x).setRaw y = s.setRaw y := rfl
end

/-- Appending to `FRM` replaces it by its bytes and the new ones after them. -/
@[simp] theorem State.appendFrm_eq (s : State) (x : List Byte) : s.appendFrm x = s.setFrm (s.frm ++ x) := rfl
/-- Appending to `RLE` replaces it by its bytes and the new ones after them. -/
@[simp] theorem State.appendRle_eq (s : State) (x : List Byte) : s.appendRle x = s.setRle (s.rle ++ x) := rfl
/-- Appending to `TXT` replaces it by its bytes and the new ones after them. -/
@[simp] theorem State.appendTxt_eq (s : State) (x : List Byte) : s.appendTxt x = s.setTxt (s.txt ++ x) := rfl
/-- Appending to `PKD` replaces it by its bytes and the new ones after them. -/
@[simp] theorem State.appendPkd_eq (s : State) (x : List Byte) : s.appendPkd x = s.setPkd (s.pkd ++ x) := rfl
/-- Appending to `RAW` replaces it by its bytes and the new ones after them. -/
@[simp] theorem State.appendRaw_eq (s : State) (x : List Byte) : s.appendRaw x = s.setRaw (s.raw ++ x) := rfl

@[simp] theorem State.clearStreams_params (s : State) : s.clearStreams.params = s.params := rfl
@[simp] theorem State.clearStreams_port (s : State) : s.clearStreams.port = s.port := rfl
@[simp] theorem State.clearStreams_ctl (s : State) : s.clearStreams.ctl = s.ctl := rfl
@[simp] theorem State.clearStreams_st (s : State) : s.clearStreams.st = s.st := rfl
@[simp] theorem State.clearStreams_crc (s : State) : s.clearStreams.crc = s.crc := rfl
@[simp] theorem State.clearStreams_pk (s : State) : s.clearStreams.pk = s.pk := rfl
@[simp] theorem State.clearStreams_up (s : State) : s.clearStreams.up = s.up := rfl
@[simp] theorem State.clearStreams_rd (s : State) : s.clearStreams.rd = s.rd := rfl
@[simp] theorem State.clearStreams_re (s : State) : s.clearStreams.re = s.re := rfl
@[simp] theorem State.clearStreams_fa (s : State) : s.clearStreams.fa = s.fa := rfl
@[simp] theorem State.clearStreams_v (s : State) : s.clearStreams.v = s.v := rfl
@[simp] theorem State.clearStreams_frm (s : State) : s.clearStreams.frm = [] := rfl
@[simp] theorem State.clearStreams_rle (s : State) : s.clearStreams.rle = [] := rfl
@[simp] theorem State.clearStreams_txt (s : State) : s.clearStreams.txt = [] := rfl
@[simp] theorem State.clearStreams_pkd (s : State) : s.clearStreams.pkd = [] := rfl
@[simp] theorem State.clearStreams_raw (s : State) : s.clearStreams.raw = [] := rfl

@[simp] theorem State.setVok_eq (s : State) (ok : Bool) : s.setVok ok = s.setSt { s.st with vok := ok } := rfl
@[simp] theorem State.setPkCycle_eq (s : State) (c : BitVec 6) (q : BitVec 2) :
    s.setPkCycle c q = s.setPk { s.pk with carry := c, st := q } := rfl
@[simp] theorem State.setFaFork_eq (s : State) (p : Phase) (r : BitVec 32) :
    s.setFaFork p r = s.setFa { s.fa with ph := p, rem := r } := rfl

end Sys2Proof.Machine
end

