-- ==== Sys2Proof/Laws/Ops.lean ====
section
/-! SUPPORT. What the shared operations of `Machine/Ops.lean` do, said once: fault entry, reset, the issue of an
operation, the legality check. -/

namespace Sys2Proof.Machine

/-- Fault entry in one equation (R250). -/
theorem raise_eq (c : Cause) (s : State) :
    raise c s = { s with st := { s.st with fault := true, cause := c.code }, frm := [], rle := [], txt := [], pkd := [],
                         raw := [] } := rfl

@[simp] theorem raise_params (c : Cause) (s : State) : (raise c s).params = s.params := rfl
@[simp] theorem raise_port (c : Cause) (s : State) : (raise c s).port = s.port := rfl
@[simp] theorem raise_ctl (c : Cause) (s : State) : (raise c s).ctl = s.ctl := rfl
@[simp] theorem raise_st (c : Cause) (s : State) : (raise c s).st = { s.st with fault := true, cause := c.code } := rfl
@[simp] theorem raise_crc (c : Cause) (s : State) : (raise c s).crc = s.crc := rfl
@[simp] theorem raise_pk (c : Cause) (s : State) : (raise c s).pk = s.pk := rfl
@[simp] theorem raise_up (c : Cause) (s : State) : (raise c s).up = s.up := rfl
@[simp] theorem raise_rd (c : Cause) (s : State) : (raise c s).rd = s.rd := rfl
@[simp] theorem raise_re (c : Cause) (s : State) : (raise c s).re = s.re := rfl
@[simp] theorem raise_fa (c : Cause) (s : State) : (raise c s).fa = s.fa := rfl
@[simp] theorem raise_v (c : Cause) (s : State) : (raise c s).v = s.v := rfl
@[simp] theorem raise_frm (c : Cause) (s : State) : (raise c s).frm = [] := rfl
@[simp] theorem raise_rle (c : Cause) (s : State) : (raise c s).rle = [] := rfl
@[simp] theorem raise_txt (c : Cause) (s : State) : (raise c s).txt = [] := rfl
@[simp] theorem raise_pkd (c : Cause) (s : State) : (raise c s).pkd = [] := rfl
@[simp] theorem raise_raw (c : Cause) (s : State) : (raise c s).raw = [] := rfl

@[simp] theorem coreReset_params (s : State) : (coreReset s).params = s.params := rfl
@[simp] theorem coreReset_port (s : State) : (coreReset s).port = s.port := rfl
@[simp] theorem coreReset_ctl (s : State) : (coreReset s).ctl = State.reset.ctl := rfl
@[simp] theorem coreReset_st (s : State) : (coreReset s).st = State.reset.st := rfl
@[simp] theorem coreReset_crc (s : State) : (coreReset s).crc = State.reset.crc := rfl
@[simp] theorem coreReset_pk (s : State) : (coreReset s).pk = State.reset.pk := rfl
@[simp] theorem coreReset_up (s : State) : (coreReset s).up = State.reset.up := rfl
@[simp] theorem coreReset_rd (s : State) : (coreReset s).rd = State.reset.rd := rfl
@[simp] theorem coreReset_re (s : State) : (coreReset s).re = State.reset.re := rfl
@[simp] theorem coreReset_fa (s : State) : (coreReset s).fa = State.reset.fa := rfl
@[simp] theorem coreReset_v (s : State) : (coreReset s).v = State.reset.v := rfl
@[simp] theorem coreReset_frm (s : State) : (coreReset s).frm = State.reset.frm := rfl
@[simp] theorem coreReset_rle (s : State) : (coreReset s).rle = State.reset.rle := rfl
@[simp] theorem coreReset_txt (s : State) : (coreReset s).txt = State.reset.txt := rfl
@[simp] theorem coreReset_pkd (s : State) : (coreReset s).pkd = State.reset.pkd := rfl
@[simp] theorem coreReset_raw (s : State) : (coreReset s).raw = State.reset.raw := rfl

/-- The cause codes are pairwise different (R241). -/
theorem Cause.code_injective {c d : Cause} (h : c.code = d.code) : c = d := by
  cases c <;> cases d <;> first | rfl | exact absurd h (by decide)

/-- Every code is one of 1..9 (R241). -/
theorem Cause.code_range (c : Cause) : 1#4 ≤ c.code ∧ c.code ≤ 9#4 := by cases c <;> decide

/-- An operation issued without a fault has its effect. -/
theorem issue_running {s : State} (h : s.st.fault = false) (body : State → State) : issue s body = .next (body s) := by
  simp [issue, h]

/-- An operation issued while faulted changes nothing (R251). -/
theorem issue_faulted {s : State} (h : s.st.fault = true) (body : State → State) : issue s body = .next s := by
  simp [issue, h]

/-- Everything the issue of an operation can do. -/
theorem issue_cases {s t : State} {body : State → State} (h : issue s body = .next t) :
    (s.st.fault = true ∧ t = s) ∨ (s.st.fault = false ∧ t = body s) := by
  unfold issue at h
  cases hf : s.st.fault <;> simp [hf] at h
  · exact .inr ⟨rfl, h.symm⟩
  · exact .inl ⟨rfl, h.symm⟩

theorem whenLegal_true (s : State) (body : State → State) : whenLegal true s body = body s := rfl

theorem whenLegal_false (s : State) (body : State → State) : whenLegal false s body = raise .illegalOp s := rfl

/-- Everything the legality check can do. -/
theorem whenLegal_cases (legal : Bool) (s : State) (body : State → State) :
    (legal = true ∧ whenLegal legal s body = body s) ∨
      (legal = false ∧ whenLegal legal s body = raise .illegalOp s) := by
  cases legal
  · exact .inr ⟨rfl, rfl⟩
  · exact .inl ⟨rfl, rfl⟩

end Sys2Proof.Machine
end

