-- ==== Sys2Proof/Laws/PerInstr.lean ====
section
/-! SUPPORT. The per-operation family `CommandShape`: the opcode byte alone fixes the length of a command (rules R80, R81),
its `unit` field is one of the eight assigned units (R82), and the operand fits its format (R83). -/

namespace Sys2Proof.Laws

/-- A command is its opcode byte and as many operand bytes as its format requires, 1, 2, 3, 5 or 9 bytes in all; the unit
number is below 8; the operand fits. -/
def CommandShape.Statement (i : Instr) : Prop :=
  (encode i).length = 1 + i.format.operandBytes ∧ (encode i).length ∈ [1, 2, 3, 5, 9] ∧
    i.opcode.toNat / 16 < 8 ∧ i.operand < 256 ^ i.format.operandBytes

/-- The shape follows from the opcode, the format and the operand. -/
theorem commandShape_of (i : Instr) (h8 : i.opcode.toNat / 16 < 8) (hop : i.operand < 256 ^ i.format.operandBytes) :
    CommandShape.Statement i := by
  refine ⟨by simp [encode, Nat.add_comm], ?_, h8, hop⟩
  cases hf : i.format <;> simp [encode, hf, Format.operandBytes]

theorem CommandShape.nop : CommandShape.Statement .nop := commandShape_of _ (by decide) (by decide)
theorem CommandShape.coreRst : CommandShape.Statement .coreRst := commandShape_of _ (by decide) (by decide)
theorem CommandShape.ctlWr (imm : BitVec 8) : CommandShape.Statement (.ctlWr imm) :=
  commandShape_of _ (by simp [Instr.opcode]) imm.isLt
theorem CommandShape.crcClr : CommandShape.Statement .crcClr := commandShape_of _ (by decide) (by decide)
theorem CommandShape.crcByte (imm : BitVec 8) : CommandShape.Statement (.crcByte imm) :=
  commandShape_of _ (by simp [Instr.opcode]) imm.isLt
theorem CommandShape.crcFlush : CommandShape.Statement .crcFlush := commandShape_of _ (by decide) (by decide)
theorem CommandShape.crcVfy (imm : BitVec 16) : CommandShape.Statement (.crcVfy imm) :=
  commandShape_of _ (by simp [Instr.opcode]) imm.isLt
theorem CommandShape.pkClr : CommandShape.Statement .pkClr := commandShape_of _ (by decide) (by decide)
theorem CommandShape.pkBegin : CommandShape.Statement .pkBegin := commandShape_of _ (by decide) (by decide)
theorem CommandShape.pkByte (imm : BitVec 8) : CommandShape.Statement (.pkByte imm) :=
  commandShape_of _ (by simp [Instr.opcode]) imm.isLt
theorem CommandShape.pkFlush : CommandShape.Statement .pkFlush := commandShape_of _ (by decide) (by decide)
theorem CommandShape.pkEnd : CommandShape.Statement .pkEnd := commandShape_of _ (by decide) (by decide)
theorem CommandShape.upClr : CommandShape.Statement .upClr := commandShape_of _ (by decide) (by decide)
theorem CommandShape.upChar (imm : BitVec 8) : CommandShape.Statement (.upChar imm) :=
  commandShape_of _ (by simp [Instr.opcode]) imm.isLt
theorem CommandShape.upEnd : CommandShape.Statement .upEnd := commandShape_of _ (by decide) (by decide)
theorem CommandShape.rdClr : CommandShape.Statement .rdClr := commandShape_of _ (by decide) (by decide)
theorem CommandShape.rdByte (imm : BitVec 8) : CommandShape.Statement (.rdByte imm) :=
  commandShape_of _ (by simp [Instr.opcode]) imm.isLt
theorem CommandShape.rdEnd : CommandShape.Statement .rdEnd := commandShape_of _ (by decide) (by decide)
theorem CommandShape.reClr : CommandShape.Statement .reClr := commandShape_of _ (by decide) (by decide)
theorem CommandShape.reByte (imm : BitVec 8) : CommandShape.Statement (.reByte imm) :=
  commandShape_of _ (by simp [Instr.opcode]) imm.isLt
theorem CommandShape.reEnd : CommandShape.Statement .reEnd := commandShape_of _ (by decide) (by decide)
theorem CommandShape.faClr : CommandShape.Statement .faClr := commandShape_of _ (by decide) (by decide)
theorem CommandShape.faNclr : CommandShape.Statement .faNclr := commandShape_of _ (by decide) (by decide)
theorem CommandShape.faNpush (imm : BitVec 8) : CommandShape.Statement (.faNpush imm) :=
  commandShape_of _ (by simp [Instr.opcode]) imm.isLt
theorem CommandShape.faType (imm : BitVec 32) : CommandShape.Statement (.faType imm) :=
  commandShape_of _ (by simp [Instr.opcode]) imm.isLt
theorem CommandShape.faAuth (imm : BitVec 32) : CommandShape.Statement (.faAuth imm) :=
  commandShape_of _ (by simp [Instr.opcode]) imm.isLt
theorem CommandShape.faFlags (imm : BitVec 16) : CommandShape.Statement (.faFlags imm) :=
  commandShape_of _ (by simp [Instr.opcode]) imm.isLt
theorem CommandShape.faDlen (imm : BitVec 64) : CommandShape.Statement (.faDlen imm) :=
  commandShape_of _ (by simp [Instr.opcode]) imm.isLt
theorem CommandShape.faRlen (imm : BitVec 64) : CommandShape.Statement (.faRlen imm) :=
  commandShape_of _ (by simp [Instr.opcode]) imm.isLt
theorem CommandShape.faHdr : CommandShape.Statement .faHdr := commandShape_of _ (by decide) (by decide)
theorem CommandShape.faPush (imm : BitVec 8) : CommandShape.Statement (.faPush imm) :=
  commandShape_of _ (by simp [Instr.opcode]) imm.isLt
theorem CommandShape.fpClr : CommandShape.Statement .fpClr := commandShape_of _ (by decide) (by decide)
theorem CommandShape.fpParse : CommandShape.Statement .fpParse := commandShape_of _ (by decide) (by decide)
theorem CommandShape.vfRun : CommandShape.Statement .vfRun := commandShape_of _ (by decide) (by decide)

end Sys2Proof.Laws
end

