-- ==== Sys2Proof/Laws/Sequences.lean ====
section
/-! SUPPORT. Lists of operations executed in issue order: how they split, and when an operation among them has executed
(`State.HasExecuted`, R234). -/

namespace Sys2Proof.Machine

@[simp] theorem execAll_nil (s : State) : execAll [] s = .next s := rfl

/-- A first operation that completes hands its state to the rest. -/
theorem execAll_cons {i : Instr} {s u : State} (h : exec i s = .next u) (is : List Instr) :
    execAll (i :: is) s = execAll is u := by
  simp [execAll, h]

/-- A first part that completes hands its state to the rest. -/
theorem execAll_append {is : List Instr} {s u : State} (h : execAll is s = .next u) (js : List Instr) :
    execAll (is ++ js) s = execAll js u := by
  induction is generalizing s with
  | nil => cases h; rfl
  | cons i is ih =>
    rw [execAll] at h
    split at h
    · next hi => rw [List.cons_append, execAll_cons hi]; exact ih h
    all_goals cases h

/-- The last operation of a list has executed when it ran without a fault. -/
theorem State.hasExecuted_last {s u v : State} {is : List Instr} {i : Instr} {P : State → Prop}
    (h : execAll is s = .next u) (hu : u.st.fault = false) (hi : exec i u = .next v) (hv : v.st.fault = false)
    (hP : P v) : s.HasExecuted (is ++ [i]) i P :=
  ⟨is, [], u, v, rfl, by simp, h, hu, hi, hv, hP⟩

/-- What has executed goes on to have executed while no `CORE.RST` follows. -/
theorem State.HasExecuted.append {s : State} {is js : List Instr} {i : Instr} {P : State → Prop}
    (h : s.HasExecuted is i P) (hj : Instr.coreRst ∉ js) : s.HasExecuted (is ++ js) i P := by
  obtain ⟨before, after, u, v, rfl, ha, h⟩ := h
  exact ⟨before, after ++ js, u, v, by simp, by simp [ha, hj], h⟩

/-- What has executed was issued. -/
theorem State.HasExecuted.mem {s : State} {is : List Instr} {i : Instr} {P : State → Prop}
    (h : s.HasExecuted is i P) : i ∈ is := by
  obtain ⟨before, after, -, -, rfl, -⟩ := h
  simp

end Sys2Proof.Machine
end

