-- ==== Sys2Proof/Laws/Units.lean ====
section
/-! SUPPORT. What each unit's procedures do, said once. Each procedure is a function of the unit's own registers to new
registers and output bytes (the functions `…Out` below), and changes nothing else; through a link the output bytes go to
the next unit (`deliverRe`, `deliverFa`, `deliverUp` of `Safety.lean`). -/

namespace Sys2Proof.Machine

/-! ### The packer -/

/-- `pk_sym` as a function of the packer's registers: new registers and appended bytes. -/
def pkSymOut (p : PkRegs) (y : Symbol) : PkRegs × List Byte :=
  if p.col + 1 = 64#7 then ({ p with col := 0#7 }, [alpha y, Config.cr, Config.lf])
  else ({ p with col := p.col + 1 }, [alpha y])

theorem pkSym_eq (s : State) (y : Symbol) :
    pkSym s y = (s.setPk (pkSymOut s.pk y).1).setTxt (s.txt ++ (pkSymOut s.pk y).2) := by
  unfold pkSym pkSymOut
  split <;> rfl

/-- `pk_byte` as a function of the packer's registers. -/
def pkByteOut (p : PkRegs) (b : Byte) : PkRegs × List Byte :=
  if p.st = 0#2 then
    let q := pkSymOut p ((b >>> 2).setWidth 6)
    ({ q.1 with carry := ((b &&& 0x03#8) <<< 4).setWidth 6, st := 1#2 }, q.2)
  else if p.st = 1#2 then
    let q := pkSymOut p (p.carry ||| (b >>> 4).setWidth 6)
    ({ q.1 with carry := ((b &&& 0x0F#8) <<< 2).setWidth 6, st := 2#2 }, q.2)
  else
    let q := pkSymOut p (p.carry ||| (b >>> 6).setWidth 6)
    let r := pkSymOut q.1 ((b &&& 0x3F#8).setWidth 6)
    ({ r.1 with carry := 0#6, st := 0#2 }, q.2 ++ r.2)

/-- Everything `pk_byte` does (R148). -/
theorem pkByte_eq (s : State) (b : Byte) :
    pkByte s b = (s.setPk (pkByteOut s.pk b).1).setTxt (s.txt ++ (pkByteOut s.pk b).2) := by
  unfold pkByte pkByteOut
  split
  · rw [pkSym_eq]; rfl
  · split
    · rw [pkSym_eq]; rfl
    · rw [pkSym_eq s, pkSym_eq]
      simp only [State.setPkCycle_eq, State.setTxt_pk, State.setPk_pk, State.setTxt_txt, List.append_assoc]
      rfl

/-- A sequence of bytes through the packer. -/
def pkBytesOut : PkRegs → List Byte → PkRegs × List Byte
  | p, [] => (p, [])
  | p, b :: bs => ((pkBytesOut (pkByteOut p b).1 bs).1, (pkByteOut p b).2 ++ (pkBytesOut (pkByteOut p b).1 bs).2)

theorem foldl_pkByte_eq (bytes : List Byte) (s : State) :
    bytes.foldl pkByte s = (s.setPk (pkBytesOut s.pk bytes).1).setTxt (s.txt ++ (pkBytesOut s.pk bytes).2) := by
  induction bytes generalizing s with
  | nil => simp [pkBytesOut]
  | cons b bs ih =>
    rw [List.foldl_cons, ih, pkByte_eq]
    simp only [pkBytesOut, State.setTxt_pk, State.setPk_pk, State.setTxt_txt, List.append_assoc]
    rfl

theorem pkBytesOut_append (p : PkRegs) (a b : List Byte) :
    pkBytesOut p (a ++ b) =
      ((pkBytesOut (pkBytesOut p a).1 b).1, (pkBytesOut p a).2 ++ (pkBytesOut (pkBytesOut p a).1 b).2) := by
  induction a generalizing p with
  | nil => simp [pkBytesOut]
  | cons x xs ih => simp [pkBytesOut, ih, List.append_assoc]

/-- The flush of the packer as a function of its registers (R150). -/
def pkFlushOut (m : PkFlush) (p : PkRegs) : PkRegs × List Byte :=
  if p.st ≠ 0#2 ∧ m = .zeroPad then
    let q := pkSymOut p p.carry
    ({ q.1 with carry := 0#6, st := 0#2 }, q.2)
  else ({ p with carry := 0#6, st := 0#2 }, [])

/-- Everything the flush does (R150). -/
theorem pkFlush_eq (s : State) :
    pkFlush s =
      (s.setPk (pkFlushOut s.params.pkFlush s.pk).1).setTxt (s.txt ++ (pkFlushOut s.params.pkFlush s.pk).2) := by
  unfold pkFlush pkFlushOut
  split
  · rw [pkSym_eq]; rfl
  · simp only [List.append_nil]; rfl

/-! ### The RLE decoder and the unpacker -/

/-- `rd_byte` as a function of the decoder's registers. -/
def rdByteOut (r : RdRegs) (b : Byte) : RdRegs × List Byte :=
  if r.has = false then
    if b = Config.marker then ({ r with has := true }, []) else ({ r with last := b }, [b])
  else if b = 0x00#8 then ({ has := false, last := Config.marker }, [Config.marker])
  else ({ r with has := false }, List.replicate (b.toNat - 1) r.last)

/-- Everything `rd_byte` does (R172). -/
theorem rdByte_eq (s : State) (b : Byte) :
    rdByte s b = (s.setRd (rdByteOut s.rd b).1).setRaw (s.raw ++ (rdByteOut s.rd b).2) := by
  unfold rdByte rdByteOut
  split
  · split
    · simp only [List.append_nil]; rfl
    · rfl
  · split <;> rfl

/-- A sequence of bytes through the RLE decoder. -/
def rdBytesOut : RdRegs → List Byte → RdRegs × List Byte
  | r, [] => (r, [])
  | r, b :: bs => ((rdBytesOut (rdByteOut r b).1 bs).1, (rdByteOut r b).2 ++ (rdBytesOut (rdByteOut r b).1 bs).2)

theorem foldl_rdByte_eq (bytes : List Byte) (s : State) :
    bytes.foldl rdByte s = (s.setRd (rdBytesOut s.rd bytes).1).setRaw (s.raw ++ (rdBytesOut s.rd bytes).2) := by
  induction bytes generalizing s with
  | nil => simp [rdBytesOut]
  | cons b bs ih =>
    rw [List.foldl_cons, ih, rdByte_eq]
    simp only [rdBytesOut, State.setRaw_rd, State.setRd_rd, State.setRaw_raw, List.append_assoc]
    rfl

theorem rdBytesOut_append (r : RdRegs) (a b : List Byte) :
    rdBytesOut r (a ++ b) =
      ((rdBytesOut (rdBytesOut r a).1 b).1, (rdBytesOut r a).2 ++ (rdBytesOut (rdBytesOut r a).1 b).2) := by
  induction a generalizing r with
  | nil => simp [rdBytesOut]
  | cons x xs ih => simp [rdBytesOut, ih, List.append_assoc]

/-- Everything delivery from the unpacker does (R64). -/
theorem deliverUp_eq (s : State) (bytes : List Byte) :
    deliverUp s bytes =
      if s.ctl.lUpRd then (s.setRd (rdBytesOut s.rd bytes).1).setRaw (s.raw ++ (rdBytesOut s.rd bytes).2)
      else s.setPkd (s.pkd ++ bytes) := by
  unfold deliverUp
  rw [foldl_rdByte_eq]
  rfl

theorem upEmit_eq (s : State) (b : Byte) : upEmit s b = deliverUp s [b] := by
  unfold upEmit deliverUp
  split <;> rfl

/-- `up_sym` as a function of the unpacker's registers. -/
def upSymOut (u : UpRegs) (y : Symbol) : UpRegs × List Byte :=
  if u.st = 0#2 then ({ carry := y.setWidth 8 <<< 2, st := 1#2 }, [])
  else if u.st = 1#2 then
    ({ carry := (y &&& 0x0F#6).setWidth 8 <<< 4, st := 2#2 }, [u.carry ||| (y >>> 4).setWidth 8])
  else if u.st = 2#2 then
    ({ carry := (y &&& 0x03#6).setWidth 8 <<< 6, st := 3#2 }, [u.carry ||| (y >>> 2).setWidth 8])
  else ({ carry := 0#8, st := 0#2 }, [u.carry ||| y.setWidth 8])

/-- Everything `up_sym` does (R162). -/
theorem upSym_eq (s : State) (y : Symbol) :
    upSym s y = (deliverUp s (upSymOut s.up y).2).setUp (upSymOut s.up y).1 := by
  have hnil : deliverUp s [] = s := by unfold deliverUp; simp
  unfold upSym upSymOut
  split
  · rw [hnil]
  · split
    · rw [upEmit_eq]
    · split <;> rw [upEmit_eq]

/-! ### The RLE encoder -/

/-- Everything delivery from the RLE encoder does (R63). -/
theorem deliverRe_eq (s : State) (bytes : List Byte) :
    deliverRe s bytes =
      if s.ctl.lRePk then (s.setPk (pkBytesOut s.pk bytes).1).setTxt (s.txt ++ (pkBytesOut s.pk bytes).2)
      else s.setRle (s.rle ++ bytes) := by
  unfold deliverRe
  rw [foldl_pkByte_eq]
  rfl

@[simp] theorem deliverRe_nil (s : State) : deliverRe s [] = s := by unfold deliverRe; simp

theorem reEmit_eq (s : State) (b : Byte) : reEmit s b = deliverRe s [b] := by
  unfold reEmit deliverRe
  split <;> rfl

@[simp] theorem deliverRe_ctl (s : State) (bytes : List Byte) : (deliverRe s bytes).ctl = s.ctl := by
  rw [deliverRe_eq]; split <;> rfl

@[simp] theorem deliverRe_params (s : State) (bytes : List Byte) : (deliverRe s bytes).params = s.params := by
  rw [deliverRe_eq]; split <;> rfl

@[simp] theorem deliverRe_re (s : State) (bytes : List Byte) : (deliverRe s bytes).re = s.re := by
  rw [deliverRe_eq]; split <;> rfl

theorem deliverRe_append (s : State) (a b : List Byte) : deliverRe s (a ++ b) = deliverRe (deliverRe s a) b := by
  cases h : s.ctl.lRePk
  · have h' := deliverRe_ctl s a
    simp [deliverRe, h, List.append_assoc]
  · have : (a.foldl pkByte s).ctl = s.ctl := by rw [foldl_pkByte_eq]; rfl
    simp [deliverRe, h, this]

theorem reLit_eq (s : State) (v : Byte) : reLit s v = deliverRe s (litBytes v) := by
  unfold reLit litBytes
  split
  · rw [reEmit_eq, reEmit_eq, ← deliverRe_append]; rfl
  · rw [reEmit_eq]

theorem reLits_eq (v : Byte) (n : Nat) (s : State) :
    reLits v n s = deliverRe s (List.replicate n (litBytes v)).flatten := by
  induction n generalizing s with
  | zero => simp [reLits]
  | succ n ih => rw [reLits, ih, reLit_eq, ← deliverRe_append]; rfl

/-- Everything `re_run` does (R181). -/
theorem reRun_eq (s : State) (v : Byte) (n : BitVec 8) :
    reRun s v n = deliverRe s (runBytes s.params.reMinRun v n) := by
  unfold reRun runBytes
  split
  · rw [reLit_eq, reEmit_eq, reEmit_eq, ← deliverRe_append, ← deliverRe_append]; simp
  · rw [reLits_eq]

/-- `re_byte` as a function of the encoder's registers. -/
def reByteOut (minRun : Nat) (r : ReRegs) (b : Byte) : ReRegs × List Byte :=
  if r.haveRun = false then ({ haveRun := true, cur := b, cnt := 1#8 }, [])
  else if b = r.cur ∧ r.cnt < 255#8 then ({ r with cnt := r.cnt + 1 }, [])
  else ({ r with cur := b, cnt := 1#8 }, runBytes minRun r.cur r.cnt)

/-- Everything `re_byte` does (R182). -/
theorem reByte_eq (s : State) (b : Byte) :
    reByte s b = (deliverRe s (reByteOut s.params.reMinRun s.re b).2).setRe (reByteOut s.params.reMinRun s.re b).1 := by
  unfold reByte reByteOut
  split
  · simp
  · split
    · simp
    · rw [reRun_eq]

/-- A sequence of bytes through the RLE encoder. -/
def reBytesOut (minRun : Nat) : ReRegs → List Byte → ReRegs × List Byte
  | r, [] => (r, [])
  | r, b :: bs =>
    ((reBytesOut minRun (reByteOut minRun r b).1 bs).1,
      (reByteOut minRun r b).2 ++ (reBytesOut minRun (reByteOut minRun r b).1 bs).2)

theorem deliverRe_setRe (s : State) (r : ReRegs) (bytes : List Byte) :
    deliverRe (s.setRe r) bytes = (deliverRe s bytes).setRe r := by
  rw [deliverRe_eq, deliverRe_eq]
  cases h : s.ctl.lRePk <;> simp [h] <;> rfl

theorem foldl_reByte_eq (bytes : List Byte) (s : State) :
    bytes.foldl reByte s =
      (deliverRe s (reBytesOut s.params.reMinRun s.re bytes).2).setRe (reBytesOut s.params.reMinRun s.re bytes).1 := by
  induction bytes generalizing s with
  | nil => simp [reBytesOut]
  | cons b bs ih =>
    rw [List.foldl_cons, ih, reByte_eq]
    simp only [reBytesOut, State.setRe_re, State.setRe_params, deliverRe_params, deliverRe_setRe, deliverRe_append,
      State.setRe_setRe]

theorem reBytesOut_append (m : Nat) (r : ReRegs) (a b : List Byte) :
    reBytesOut m r (a ++ b) =
      ((reBytesOut m (reBytesOut m r a).1 b).1, (reBytesOut m r a).2 ++ (reBytesOut m (reBytesOut m r a).1 b).2) := by
  induction a generalizing r with
  | nil => simp [reBytesOut]
  | cons x xs ih => simp [reBytesOut, ih, List.append_assoc]

/-! ### The frame assembler -/

/-- Everything delivery from the frame assembler does (R62). -/
theorem deliverFa_eq (s : State) (bytes : List Byte) :
    deliverFa s bytes =
      if s.ctl.lFaRe then
        (deliverRe s (reBytesOut s.params.reMinRun s.re bytes).2).setRe (reBytesOut s.params.reMinRun s.re bytes).1
      else s.setFrm (s.frm ++ bytes) := by
  unfold deliverFa
  rw [foldl_reByte_eq]
  rfl

/-- Delivery changes only the registers and streams of the units it reaches. -/
theorem deliverRe_form (s : State) (bytes : List Byte) :
    ∃ p t l, deliverRe s bytes = ((s.setPk p).setTxt t).setRle l := by
  rw [deliverRe_eq]
  split
  · exact ⟨(pkBytesOut s.pk bytes).1, s.txt ++ (pkBytesOut s.pk bytes).2, s.rle, rfl⟩
  · exact ⟨s.pk, s.txt, s.rle ++ bytes, rfl⟩

/-- Delivery changes only the registers and streams of the units it reaches. -/
theorem deliverFa_form (s : State) (bytes : List Byte) :
    ∃ r p t l f, deliverFa s bytes = ((((s.setRe r).setPk p).setTxt t).setRle l).setFrm f := by
  rw [deliverFa_eq]
  split
  · obtain ⟨p, t, l, h⟩ := deliverRe_form s (reBytesOut s.params.reMinRun s.re bytes).2
    rw [h]
    exact ⟨(reBytesOut s.params.reMinRun s.re bytes).1, p, t, l, s.frm, rfl⟩
  · exact ⟨s.re, s.pk, s.txt, s.rle, s.frm ++ bytes, rfl⟩

section
variable (s : State) (bytes : List Byte)
@[simp] theorem deliverFa_params : (deliverFa s bytes).params = s.params := by
  obtain ⟨_, _, _, _, _, h⟩ := deliverFa_form s bytes; rw [h]; rfl
@[simp] theorem deliverFa_port : (deliverFa s bytes).port = s.port := by
  obtain ⟨_, _, _, _, _, h⟩ := deliverFa_form s bytes; rw [h]; rfl
@[simp] theorem deliverFa_ctl : (deliverFa s bytes).ctl = s.ctl := by
  obtain ⟨_, _, _, _, _, h⟩ := deliverFa_form s bytes; rw [h]; rfl
@[simp] theorem deliverFa_st : (deliverFa s bytes).st = s.st := by
  obtain ⟨_, _, _, _, _, h⟩ := deliverFa_form s bytes; rw [h]; rfl
@[simp] theorem deliverFa_crc : (deliverFa s bytes).crc = s.crc := by
  obtain ⟨_, _, _, _, _, h⟩ := deliverFa_form s bytes; rw [h]; rfl
@[simp] theorem deliverFa_fa : (deliverFa s bytes).fa = s.fa := by
  obtain ⟨_, _, _, _, _, h⟩ := deliverFa_form s bytes; rw [h]; rfl
end

@[simp] theorem deliverFa_nil : deliverFa s [] = s := by unfold deliverFa; simp

theorem deliverFa_append (s : State) (a b : List Byte) : deliverFa s (a ++ b) = deliverFa (deliverFa s a) b := by
  have hc := deliverFa_ctl s a
  cases h : s.ctl.lFaRe
  · simp [deliverFa, h, List.append_assoc]
  · simp only [deliverFa, h, if_true, List.foldl_append] at hc ⊢
    rw [hc, h]
    simp

theorem deliverFa_setCrc (s : State) (x : CrcWord) (bytes : List Byte) :
    deliverFa (s.setCrc x) bytes = (deliverFa s bytes).setCrc x := by
  rw [deliverFa_eq, deliverFa_eq, deliverRe_eq, deliverRe_eq]
  cases h : s.ctl.lFaRe <;> cases h' : s.ctl.lRePk <;> simp [h, h'] <;> rfl

theorem deliverFa_setFa (s : State) (x : FaRegs) (bytes : List Byte) :
    deliverFa (s.setFa x) bytes = (deliverFa s bytes).setFa x := by
  rw [deliverFa_eq, deliverFa_eq, deliverRe_eq, deliverRe_eq]
  cases h : s.ctl.lFaRe <;> cases h' : s.ctl.lRePk <;> simp [h, h'] <;> rfl

theorem faEmit_eq (s : State) (b : Byte) : faEmit s b = deliverFa s [b] := by
  unfold faEmit deliverFa
  split <;> rfl

/-- Everything a sequence of `fa_emit` does (R62). -/
theorem faEmitAll_eq (s : State) (bytes : List Byte) : faEmitAll s bytes = deliverFa s bytes := by
  unfold faEmitAll
  induction bytes generalizing s with
  | nil => simp
  | cons b bs ih =>
    rw [List.foldl_cons, ih, faEmit_eq, ← deliverFa_append]
    rfl

/-! ### The verifier -/

/-- Everything one section of `VF.RUN` can do (R218). -/
theorem verifySection_cases (present : Bool) (bytes : List Byte) (e : CrcWord) (c : Cause) (s : State)
    (rest : State → State) :
    (present = false ∧ verifySection present bytes e c s rest = rest s) ∨
      (present = true ∧ storedCrc bytes = e ∧
        verifySection present bytes e c s rest = rest (s.setCrc (storedCrc bytes))) ∨
      (present = true ∧ storedCrc bytes ≠ e ∧
        verifySection present bytes e c s rest = raise c (s.setCrc (storedCrc bytes))) := by
  unfold verifySection
  cases present
  · exact .inl ⟨rfl, rfl⟩
  · by_cases h : storedCrc bytes = e
    · exact .inr (.inl ⟨rfl, h, by simp [h]⟩)
    · exact .inr (.inr ⟨rfl, h, by simp [h]⟩)

end Sys2Proof.Machine
end

