-- ==== Sys2Proof/Tests/Slice0.lean ====
section
/-! SUPPORT. The model's own tests. Expected values come from the spec: the opcode table (rule R84), the examples that
close each operation's rule, and `95_test_vectors.md`. Then one witness for each obligation that has hypotheses: a
concrete state and operands that meet them together. -/

namespace Sys2Proof.Tests

open Sys2Proof Sys2Proof.Machine

-- The kernel evaluations run one after the other, so that the package as one text keeps few threads.
set_option Elab.async false

/-! ### Well-formedness (R8, R9): the check refuses each ill-formed term -/

theorem test_wellFormed_refuses_minRun_1 : ({ Params.chosen with reMinRun := 1 } : Params).wellFormed = false := by decide
theorem test_wellFormed_refuses_minRun_257 : ({ Params.chosen with reMinRun := 257 } : Params).wellFormed = false := by decide
theorem test_wellFormed_takes_minRun_2_and_256 :
    ({ Params.chosen with reMinRun := 2 } : Params).wellFormed = true ∧
      ({ Params.chosen with reMinRun := 256 } : Params).wellFormed = true := by decide
theorem test_wellFormed_refuses_fpv_when_absent :
    [Instr.fpClr, .fpParse, .vfRun].map (Instr.wellFormed { Params.chosen with hasFpv := false }) = [false, false, false] ∧
      Instr.wellFormed { Params.chosen with hasFpv := false } .faHdr = true := by decide

/-! ### Decoding: every operation, its bytes written out from the table of R84 (operands most significant first, R83) -/

theorem test_decode_sys :
    decode [0x00#8] = .op .nop [] ∧ decode [0x01#8] = .op .coreRst [] ∧ decode [0x02#8, 0x83#8] = .op (.ctlWr 0x83#8) [] := by
  decide +kernel
theorem test_decode_crc :
    decode [0x10#8] = .op .crcClr [] ∧ decode [0x11#8, 0x41#8] = .op (.crcByte 0x41#8) [] ∧ decode [0x12#8] = .op .crcFlush [] ∧
      decode [0x13#8, 0x31#8, 0xC3#8, 0x00#8] = .op (.crcVfy 0x31C3#16) [0x00#8] := by decide +kernel
theorem test_decode_pk :
    decode [0x20#8] = .op .pkClr [] ∧ decode [0x21#8] = .op .pkBegin [] ∧ decode [0x22#8, 0x4D#8] = .op (.pkByte 0x4D#8) [] ∧
      decode [0x23#8] = .op .pkFlush [] ∧ decode [0x24#8] = .op .pkEnd [] := by decide +kernel
theorem test_decode_up :
    decode [0x30#8] = .op .upClr [] ∧ decode [0x31#8, 0x36#8] = .op (.upChar 0x36#8) [] ∧ decode [0x32#8] = .op .upEnd [] := by
  decide +kernel
theorem test_decode_rd :
    decode [0x40#8] = .op .rdClr [] ∧ decode [0x41#8, 0x90#8] = .op (.rdByte 0x90#8) [] ∧ decode [0x42#8] = .op .rdEnd [] := by
  decide +kernel
theorem test_decode_re :
    decode [0x50#8] = .op .reClr [] ∧ decode [0x51#8, 0x90#8] = .op (.reByte 0x90#8) [] ∧ decode [0x52#8] = .op .reEnd [] := by
  decide +kernel
theorem test_decode_fa :
    decode [0x60#8] = .op .faClr [] ∧ decode [0x61#8] = .op .faNclr [] ∧ decode [0x62#8, 0x61#8] = .op (.faNpush 0x61#8) [] ∧
      decode [0x63#8, 0x54#8, 0x45#8, 0x58#8, 0x54#8] = .op (.faType 0x54455854#32) [] ∧
      decode [0x64#8, 0x74#8, 0x74#8, 0x78#8, 0x74#8] = .op (.faAuth 0x74747874#32) [] ∧
      decode [0x65#8, 0x01#8, 0x00#8] = .op (.faFlags 0x0100#16) [] ∧
      decode [0x66#8, 0x00#8, 0x00#8, 0x00#8, 0x00#8, 0x00#8, 0x00#8, 0x00#8, 0x05#8] = .op (.faDlen 5#64) [] ∧
      decode [0x67#8, 0x80#8, 0x00#8, 0x00#8, 0x00#8, 0x00#8, 0x00#8, 0x00#8, 0x03#8] = .op (.faRlen 0x8000000000000003#64) [] ∧
      decode [0x68#8] = .op .faHdr [] ∧ decode [0x69#8, 0x6F#8] = .op (.faPush 0x6F#8) [] := by decide +kernel
theorem test_decode_fpv :
    decode [0x70#8] = .op .fpClr [] ∧ decode [0x71#8] = .op .fpParse [] ∧ decode [0x72#8] = .op .vfRun [] := by decide +kernel
/-- One byte short of its operand a command is incomplete (R80); a reserved opcode takes one byte (R85). -/
theorem test_decode_incomplete_and_reserved :
    decode [] = .incomplete ∧ decode [0x66#8, 0#8, 0#8, 0#8, 0#8, 0#8, 0#8, 0#8] = .incomplete ∧
      decode [0x13#8, 0x31#8] = .incomplete ∧ decode [0x73#8, 0x00#8] = .reserved 0x73#8 [0x00#8] := by decide +kernel
/-- A word of the opcode table: its first byte is the least significant one; bytes above `nbits` are zero (log 14). -/
theorem test_decodeTableWord :
    decodeTableWord 16 0xFF02 = some (.ctlWr 0xFF#8) ∧ decodeTableWord 8 0x13 = some (.crcVfy 0#16) ∧
      decodeTableWord 72 0x050000000000000066 = some (.faDlen 5#64) ∧ decodeTableWord 8 0x03 = none := by decide +kernel
/-- The word placed by `withFetchWord` is the whole port (log 1, log 14). -/
theorem test_withFetchWord : (State.reset.withFetchWord 24 0xC33113).port = [0x13#8, 0x31#8, 0xC3#8] := by decide +kernel

/-! ### One operation at a time -/

/-- The state after an operation. -/
def after (i : Instr) (s : State) : State :=
  match exec i s with
  | .next t => t
  | .fault _ => s
  | .refused _ => s

/-- The faulted state of R111's example: `RD.HAS = 1`, `ST = 0x05`. -/
def faulted : State :=
  { State.reset with st := { fault := true, cause := 2#4, vok := false }, rd := { has := true, last := 0#8 } }

/-- The 43-byte frame of R203's example, for the data `"hello"` under the default name. -/
def helloFrame : List Byte :=
  [0x0C#8, 0x55#8, 0x6E#8, 0x74#8, 0x69#8, 0x74#8, 0x6C#8, 0x65#8, 0x64#8, 0x2E#8, 0x68#8, 0x71#8, 0x78#8] ++
    List.replicate 14 0x00#8 ++ [0x05#8, 0x00#8, 0x00#8, 0x00#8, 0x00#8, 0xA0#8, 0x62#8] ++
    [0x68#8, 0x65#8, 0x6C#8, 0x6C#8, 0x6F#8, 0xC3#8, 0x62#8, 0x00#8, 0x00#8]

/-- The view of that frame (R216, R218): its own fields, read off the frame by hand. -/
def helloView : ViewRegs :=
  { ViewRegs.reset with valid := true, nlen := 12#8, dlen := 5#32, hcrc := 0xA062#16, doff := 34, roff := 41,
                        dcrc := 0xC362#16, dcrcp := true, rcrcp := true }

/-- The frame in `RAW`, with its view. -/
def viewing (raw : List Byte) : State := { State.reset with raw := raw, v := helloView }

theorem test_nop : exec .nop faulted = .next faulted := by rfl
theorem test_coreRst : (after .coreRst faulted).stByte = 0x00#8 ∧ (after .coreRst faulted).rd.has = false := by decide +kernel
theorem test_ctlWr : (after (.ctlWr 0xFF#8) State.reset).ctlByte = 0x07#8 := by decide +kernel
theorem test_crcClr : (after .crcClr { State.reset with crc := 0xBEEF#16 }).crc = 0x0000#16 := by decide +kernel
/-- From V-CRC: the third byte of "123456789" takes `0x3132` to `0x1441`, the seventh `0xE2BF` to `0x625B`. -/
theorem test_crcByte : (after (.crcByte 0x33#8) { State.reset with crc := 0x3132#16 }).crc = 0x1441#16 ∧
    (after (.crcByte 0x37#8) { State.reset with crc := 0xE2BF#16 }).crc = 0x625B#16 := by decide +kernel
theorem test_crcFlush : (after .crcFlush { State.reset with crc := 0x0750#16 }).crc = 0xC362#16 := by decide +kernel
theorem test_crcVfy :
    let s := { State.reset with crc := 0x0750#16, st := { StReg.reset with vok := true } }
    (after (.crcVfy 0xC362#16) s).crc = 0xC362#16 ∧ (after (.crcVfy 0xC362#16) s).st.vok = true ∧
      (after (.crcVfy 0xC363#16) s).st.vok = false := by decide +kernel
theorem test_pkClr :
    let t := after .pkClr { State.reset with pk := { st := 1#2, carry := 0x10#6, col := 1#7 }, txt := [0x36#8] }
    t.pk = PkRegs.reset ∧ t.txt = [] := by decide +kernel
theorem test_pkBegin : (after .pkBegin State.reset).txt.length = 48 ∧ (after .pkBegin State.reset).txt[47]? = some 0x3A#8 := by
  decide +kernel
/-- R149's example: `0x4D` appends `6`, and `0x6E` in state 2 (after `0x61`, carried bits `0001`) appends `&Z`. -/
theorem test_pkByte : (after (.pkByte 0x4D#8) State.reset).txt = [0x36#8] ∧
    (after (.pkByte 0x6E#8) { State.reset with pk := { st := 2#2, carry := 0x04#6, col := 2#7 } }).txt = [0x26#8, 0x5A#8] := by
  decide +kernel
/-- The line wraps between the two symbols of state 2 (R149): 63 symbols stand on the line. -/
theorem test_pkByte_wraps :
    let t := after (.pkByte 0x6E#8) { State.reset with pk := { st := 2#2, carry := 0x04#6, col := 63#7 } }
    t.txt = [0x26#8, 0x0D#8, 0x0A#8, 0x5A#8] ∧ t.pk.col = 1#7 := by decide +kernel
/-- R150's example: after `PK.BYTE 0xFF` the flush appends a backtick under `ZERO_PAD` and nothing under `NONE`. -/
theorem test_pkFlush :
    let s := { State.reset with pk := { st := 1#2, carry := 0x30#6, col := 1#7 } }
    (after .pkFlush s).txt = [0x60#8] ∧
      (after .pkFlush { s with params := { s.params with pkFlush := .none } }).txt = [] := by decide +kernel
theorem test_pkEnd :
    let t := after .pkEnd { State.reset with pk := { st := 1#2, carry := 0x30#6, col := 1#7 } }
    t.txt = [0x60#8, 0x3A#8, 0x0D#8, 0x0A#8] ∧ t.pk.col = 2#7 := by decide +kernel
theorem test_upClr : (after .upClr { State.reset with up := { st := 2#2, carry := 0xF0#8 }, pkd := [0xFF#8] }).up = UpRegs.reset := by
  decide +kernel
/-- R161's example: the second of `6@&Z` (symbols 19, 22, 5, 46) emits `4D`, the third `61`. -/
theorem test_upChar : (after (.upChar 0x40#8) { State.reset with up := { st := 1#2, carry := 0x4C#8 } }).pkd = [0x4D#8] ∧
    (after (.upChar 0x26#8) { State.reset with up := { st := 2#2, carry := 0x60#8 } }).pkd = [0x61#8] := by decide +kernel
/-- A colon is invalid (R161): `BadFormat`, the unpacker's registers kept, the streams emptied (R250). -/
theorem test_upChar_colon :
    let t := after (.upChar 0x3A#8) { State.reset with up := { st := 2#2, carry := 0x60#8 }, pkd := [0x4D#8] }
    t.stByte = 0x03#8 ∧ t.up = { st := 2#2, carry := 0x60#8 } ∧ t.pkd = [] := by decide +kernel
theorem test_upEnd : (after .upEnd { State.reset with up := { st := 2#2, carry := 0xF0#8 }, pkd := [0xFF#8] }).pkd = [0xFF#8] := by
  decide +kernel
theorem test_rdClr : (after .rdClr faulted).rd.has = true ∧
    (after .rdClr { State.reset with rd := { has := true, last := 0x41#8 } }).rd = RdRegs.reset := by decide +kernel
/-- R173: `41 90 04` gives four copies; a count equal to the marker is a count of 144. -/
theorem test_rdByte :
    let s := { State.reset with rd := { has := true, last := 0x41#8 }, raw := [0x41#8] }
    (after (.rdByte 0x04#8) s).raw = List.replicate 4 0x41#8 ∧ (after (.rdByte 0x90#8) s).raw.length = 144 := by decide +kernel
theorem test_rdEnd : (after .rdEnd { State.reset with rd := { has := true, last := 0x41#8 } }).stByte = 0x05#8 := by decide +kernel
theorem test_reClr :
    (after .reClr { State.reset with re := { haveRun := true, cur := 0x41#8, cnt := 7#8 } }).re = ReRegs.reset := by decide +kernel
/-- R183's example, and the split of a full run (R182: 256 bytes `0x41` become `41 90 FF 41`). -/
theorem test_reByte :
    (after (.reByte 0x42#8) { State.reset with re := { haveRun := true, cur := 0x41#8, cnt := 3#8 } }).rle =
        [0x41#8, 0x90#8, 0x03#8] ∧
      (after (.reByte 0x41#8) { State.reset with re := { haveRun := true, cur := 0x41#8, cnt := 255#8 } }).rle =
        [0x41#8, 0x90#8, 0xFF#8] := by decide +kernel
theorem test_reEnd :
    let t := after .reEnd { State.reset with re := { haveRun := true, cur := 0x90#8, cnt := 1#8 }, rle := [0x41#8] }
    t.rle = [0x41#8, 0x90#8, 0x00#8] ∧ t.re = ReRegs.reset := by decide +kernel
theorem test_faClr : (after .faClr { State.reset with fa := { FaRegs.reset with ph := .data, nlen := 0#9 } }).fa = FaRegs.reset := rfl
theorem test_faNclr : (after .faNclr State.reset).fa.nlen = 0#9 ∧ (after .faNclr State.reset).fa.name = NameBuffer.reset :=
  ⟨rfl, rfl⟩
/-- R195: the 255th byte is stored at index 254; the 256th only makes `FA.NLEN` 256. -/
theorem test_faNpush :
    let s (n : BitVec 9) := { State.reset with fa := { FaRegs.reset with nlen := n } }
    (after (.faNpush 0x61#8) (s 254#9)).fa.nlen = 255#9 ∧
      (after (.faNpush 0x61#8) (s 254#9)).fa.name.get ⟨254, by decide⟩ = 0x61#8 ∧
      (after (.faNpush 0x61#8) (s 255#9)).fa.nlen = 256#9 ∧
      (after (.faNpush 0x61#8) (s 255#9)).fa.name.get ⟨254, by decide⟩ = 0x00#8 := by decide +kernel
theorem test_faType : (after (.faType 0x54455854#32) State.reset).fa.type = 0x54455854#32 := by decide +kernel
theorem test_faAuth : (after (.faAuth 0x74747874#32) State.reset).fa.auth = 0x74747874#32 := by decide +kernel
theorem test_faFlags : (after (.faFlags 0x0100#16) State.reset).fa.flags = 0x0100#16 := by decide +kernel
theorem test_faDlen : (after (.faDlen 5#64) State.reset).fa.dlen = 5#64 := by decide +kernel
/-- Outside phase `CFG` the operation raises `IllegalOp` (R200). -/
theorem test_faRlen : (after (.faRlen 3#64) State.reset).fa.rlen = 3#64 ∧
    (after (.faRlen 3#64) { State.reset with fa := { FaRegs.reset with ph := .done } }).stByte = 0x13#8 := by decide +kernel
/-- R201's example. -/
theorem test_faHdr :
    let t := after .faHdr { State.reset with fa := { FaRegs.reset with dlen := 5#64 } }
    t.frm = helloFrame.take 34 ∧ t.fa.ph = .data ∧ t.fa.rem = 5#32 ∧ t.crc = 0x0000#16 := by decide +kernel
/-- R203's example, its last byte. -/
theorem test_faPush :
    let t := after (.faPush 0x6F#8)
      { State.reset with fa := { FaRegs.reset with dlen := 5#64, ph := .data, rem := 1#32 },
                         crc := crc16 [0x68#8, 0x65#8, 0x6C#8, 0x6C#8] }
    t.frm = helloFrame.drop 38 ∧ t.fa.ph = .done ∧ t.crc = 0x0000#16 := by decide +kernel
theorem test_fpClr : (after .fpClr (viewing [])).v = ViewRegs.reset := by decide +kernel
/-- The frame of R203's example parses to its own fields; one byte less than its header is `BadFormat` (R216). -/
theorem test_fpParse : (after .fpParse { State.reset with raw := helloFrame }).v = helloView ∧
    (after .fpParse { State.reset with raw := helloFrame.take 33 }).stByte = 0x03#8 := by decide +kernel
/-- R218's example: the frame verifies; byte 34 changed from `68` to `69` is cause 4. -/
theorem test_vfRun : (after .vfRun (viewing helloFrame)).crc = 0xC362#16 ∧ (after .vfRun (viewing helloFrame)).stByte = 0x00#8 ∧
    (after .vfRun (viewing (helloFrame.set 34 0x69#8))).stByte = 0x09#8 := by decide +kernel

/-! ### The end of a session (R234) -/

/-- ENCODE of no data under the one-byte name `61`. -/
def encodeEmpty : List Instr :=
  encodeSequence { name := some [0x61#8], type := none, auth := none, flags := none, data := [], rsrc := [] }

/-- The state that a list of operations leaves. -/
def afterAll (is : List Instr) (s : State) : State :=
  match execAll is s with
  | .next t => t
  | .fault _ => s
  | .refused _ => s

theorem test_encode_completes : State.reset.EncodeComplete encodeEmpty (afterAll encodeEmpty State.reset) :=
  ⟨rfl, by decide +kernel,
    State.hasExecuted_last (is := encodeEmpty.dropLast) (u := afterAll encodeEmpty.dropLast State.reset) rfl
      (by decide +kernel) rfl (by decide +kernel) (by decide +kernel)⟩
/-- After `FA.HDR` with empty forks the phase is `DONE`, but without `PK.END` the session is not complete. -/
theorem test_encode_needs_pkEnd :
    (afterAll [.coreRst, linkEnc, .faNclr, .pkBegin, .faHdr] State.reset).fa.ph = .done ∧
      ∀ t, ¬ State.reset.EncodeComplete [.coreRst, linkEnc, .faNclr, .pkBegin, .faHdr] t :=
  ⟨by decide +kernel, fun _ h => absurd h.2.2.mem (by decide)⟩
/-- Fewer fork bytes than announced: no fault, the phase stays `DATA` (R278). -/
theorem test_encode_truncated_is_not_flagged :
    let t := afterAll [.coreRst, linkEnc, .faNclr, .faDlen 2#64, .pkBegin, .faHdr, .faPush 0x68#8, .reEnd, .pkEnd] State.reset
    t.st.fault = false ∧ t.fa.ph = .data ∧ t.fa.rem = 1#32 := by decide +kernel
/-- The frame in `RAW` parsed: complete without verification, not with it until `VF.RUN` has executed. -/
theorem test_decode_completes :
    let s := { State.reset with raw := helloFrame }
    s.DecodeComplete false [.fpParse] (viewing helloFrame) ∧ (∀ t, ¬ s.DecodeComplete true [.fpParse] t) ∧
      s.DecodeComplete true [.fpParse, .vfRun] (after .vfRun (viewing helloFrame)) := by
  have h : exec .fpParse { State.reset with raw := helloFrame } = .next (viewing helloFrame) :=
    congrArg Host.Outcome.next
      (by decide +kernel : after .fpParse { State.reset with raw := helloFrame } = viewing helloFrame)
  have p := State.hasExecuted_last (P := fun _ => True) (execAll_nil { State.reset with raw := helloFrame }) rfl h rfl trivial
  refine ⟨⟨execAll_cons h [], rfl, p, nofun⟩, fun _ h => absurd (h.2.2.2 rfl).mem (by decide), ?_⟩
  refine ⟨by rw [execAll_cons h]; rfl, by decide +kernel, p.append (by decide), fun _ => ?_⟩
  exact State.hasExecuted_last (execAll_cons h []) rfl rfl (by decide +kernel) trivial

/-! ### Witnesses: the hypotheses of the obligations can be met -/

theorem witness_EncodeInvertsDecode : decode [0x13#8, 0x31#8, 0xC3#8, 0x00#8] = .op (.crcVfy 0x31C3#16) [0x00#8] := by decide +kernel
theorem witness_ReservedOpcodesAreExactlyTheListed : decode [0x03#8] = .reserved 0x03#8 [] ∧ decode [0xFF#8, 1#8] = .reserved 0xFF#8 [1#8] := by
  decide +kernel
theorem witness_StepRunsTheDecodedOperation :
    decode ({ State.reset with port := [0x02#8, 0x07#8, 0x12#8] } : State).port = .op (.ctlWr 0x07#8) [0x12#8] := by decide +kernel
theorem witness_ReservedOpcodeRaisesIllegalOp :
    State.reset.st.fault = false ∧ (∀ i : Instr, i.opcode ≠ 0x03#8) ∧ (∀ i : Instr, i.opcode ≠ 0x73#8) ∧
      ∀ i : Instr, i.opcode ≠ 0xFF#8 := by
  refine ⟨rfl, ?_, ?_, ?_⟩ <;> intro i <;> cases i <;> simp [Instr.opcode]
theorem witness_StepWithoutACommandIdles :
    decode State.reset.port = .incomplete ∧ decode ({ State.reset with port := [0x13#8, 0x31#8] } : State).port = .incomplete := by
  decide +kernel
theorem witness_FaultedCoreIgnoresAllButReset :
    faulted.st.fault = true ∧ Instr.nop ≠ .coreRst ∧ decode [0x12#8, 0x00#8] = .op .crcFlush [0x00#8] ∧
      decode [0x80#8] = .reserved 0x80#8 [] := by decide +kernel
theorem witness_OnlyCoreRstLeavesTheFault :
    ∃ t, step { faulted with port := [0x01#8, 0x00#8] } = .next t ∧ faulted.st.fault = true ∧ t.st.fault = false :=
  ⟨_, rfl, rfl, rfl⟩
theorem witness_invariant : State.reset.Inv := by
  refine ⟨?_, ?_, ?_, ?_, ?_, ?_, ?_, ?_⟩ <;> decide +kernel
theorem witness_StepKeepsTheInvariant :
    ∃ t, ({ State.reset with port := [0x22#8, 0xFF#8] } : State).Inv ∧
      step { State.reset with port := [0x22#8, 0xFF#8] } = .next t := ⟨_, witness_invariant, rfl⟩
theorem witness_FaultsComeOnlyFromTheListedOperations :
    ∃ t, exec (.upChar 0x3A#8) State.reset = .next t ∧ State.reset.st.fault = false ∧ t.st.fault = true := ⟨_, rfl, rfl, rfl⟩
theorem witness_FaultsArePrecise :
    ∃ t, exec .rdEnd { State.reset with rd := { has := true, last := 0x41#8 } } = .next t ∧ State.reset.st.fault = false ∧
      t.st.fault = true ∧ Instr.rdEnd ≠ .vfRun := ⟨_, rfl, rfl, rfl, by decide⟩
theorem witness_FaultsArePrecise_vfRun :
    (viewing (helloFrame.set 34 0x69#8)).st.fault = false ∧ (after .vfRun (viewing (helloFrame.set 34 0x69#8))).st.fault = true := by
  decide +kernel
theorem witness_ControlStatusAndCrcHaveTheListedWriters :
    (after (.ctlWr 0x01#8) State.reset).ctl ≠ State.reset.ctl ∧ (after (.crcVfy 0x0000#16) State.reset).st.vok ≠ State.reset.st.vok ∧
      (after (.upChar 0x3A#8) State.reset).st.fault ≠ State.reset.st.fault ∧
      (after .nop State.reset).st.fault = State.reset.st.fault ∧ (after (.crcByte 0x41#8) State.reset).crc ≠ State.reset.crc := by
  decide +kernel
theorem witness_StreamsOnlyGrow :
    ∃ t, exec (.rdByte 0x41#8) { State.reset with raw := [0x90#8] } = .next t ∧ Instr.rdByte 0x41#8 ≠ .coreRst ∧
      t.st.fault = false ∧ Instr.rdByte 0x41#8 ≠ .rdClr ∧ t.raw = [0x90#8, 0x41#8] :=
  ⟨_, rfl, by decide, rfl, by decide, rfl⟩
/-- The reset state meets the hypotheses of every statement that asks for `ST.FAULT = 0` and no more, or for these beside
it: unit registers as after reset, `HAS_FPV`, phase `CFG`, no link, legal parameters. They are CtlWrWritesTheLinkBits,
UnitClearsResetTheirUnitOnly, CrcByteShiftsEightBits, CrcVfyReportsTheComparison, PkBeginWritesTheMarker,
PkEndClosesTheText, PackedTextHasTheStatedLength, UnpackInvertsPack, UpEndDropsPendingBits, RdEndChecksTheMarker (no
marker), ReEndDrainsTheRun, FaConfigurationWritesItsRegister, and the inner states of ExpandInvertsRleEncode and
DecodeRecoversWhatEncodeWrote. -/
theorem witness_running :
    State.reset.st.fault = false ∧ State.reset.params.hasFpv = true ∧ State.reset.fa.ph = .cfg ∧
      State.reset.ctl.lUpRd = false ∧ State.reset.ctl.lRePk = false ∧ State.reset.params.wellFormed = true ∧
      State.reset.params.pkFlush = .zeroPad ∧ State.reset.pk = { st := 0#2, carry := 0#6, col := 0#7 } ∧
      State.reset.up = { st := 0#2, carry := 0#8 } ∧ State.reset.rd = { has := false, last := 0x00#8 } ∧
      State.reset.re = { haveRun := false, cur := 0#8, cnt := 0#8 } := by decide +kernel
theorem witness_CrcFlushIsTwoZeroBytes : ({ State.reset with crc := 0x0750#16 } : State).st.fault = false ∧
    ({ State.reset with crc := 0x0750#16 } : State).crc = 0x0750#16 := by decide +kernel
theorem witness_UnitClearsResetTheirUnitOnly : faulted.st.fault = true ∧ Instr.faNclr ∈
    [Instr.crcClr, .pkClr, .upClr, .rdClr, .reClr, .faClr, .fpClr, .faNclr] := by decide
theorem witness_CrcIsLinearWithZeroResidue : [0x00#8, 0xFF#8].length = [0x90#8, 0x01#8].length ∧ ([0xFF#8, 0xFF#8] : List Byte).length ≤ 2 := by decide
theorem witness_PkByteCutsSymbols :
    (∃ ys carry st, State.reset.pk.st = 0#2 ∧ ys = [BitVec.extractLsb' 2 6 0xFF#8] ∧ State.reset.pk.col ≤ 63#7 ∧
      carry = BitVec.extractLsb' 0 2 0xFF#8 ++ 0#4 ∧ st = 1#2) ∧
    (∃ s : State, s.st.fault = false ∧ s.pk.col ≤ 63#7 ∧ s.pk = { st := 1#2, carry := 0x30#6, col := 63#7 }) ∧
    ∃ s : State, s.st.fault = false ∧ s.pk.col ≤ 63#7 ∧ s.pk = { st := 2#2, carry := 0x3C#6, col := 62#7 } :=
  ⟨⟨_, _, _, rfl, rfl, by decide, rfl, rfl⟩,
    ⟨{ State.reset with pk := { st := 1#2, carry := 0x30#6, col := 63#7 } }, rfl, by decide, rfl⟩,
    ⟨{ State.reset with pk := { st := 2#2, carry := 0x3C#6, col := 62#7 } }, rfl, by decide, rfl⟩⟩
theorem witness_PkFlushPadsOrDrops :
    (∃ s : State, s.st.fault = false ∧ s.pk.col ≤ 63#7 ∧ s.pk.st ≠ 0#2 ∧ s.params.pkFlush = .zeroPad) ∧
    ∃ s : State, s.st.fault = false ∧ s.pk.col ≤ 63#7 ∧ s.pk.st ≠ 0#2 ∧ s.params.pkFlush = .none :=
  ⟨⟨{ State.reset with pk := { st := 2#2, carry := 0x3C#6, col := 63#7 } }, rfl, by decide, by decide, rfl⟩,
    ⟨{ State.reset with pk := { st := 2#2, carry := 0x3C#6, col := 63#7 },
                        params := { Params.chosen with pkFlush := .none } }, rfl, by decide, by decide, rfl⟩⟩
theorem witness_UpCharUnpacksASymbol :
    (∃ out carry st, State.reset.up.st = 0#2 ∧ out = ([] : List Byte) ∧ carry = (0x3F#6 ++ 0#2) ∧ st = 1#2) ∧
      ∀ st : BitVec 2, ∃ s : State, s.st.fault = false ∧ s.up.st = st :=
  ⟨⟨_, _, _, rfl, rfl, rfl, rfl⟩, fun st => ⟨{ State.reset with up := { st := st, carry := 0xFC#8 } }, rfl, rfl⟩⟩
theorem witness_UpCharSkipsOrRejectsOtherBytes :
    (0x0D#8 = 0x0D#8 ∨ 0x0D#8 = 0x0A#8 ∨ 0x0D#8 = 0xFF#8) ∧ (0x3A#8 ≠ 0x0D#8 ∧ 0x3A#8 ≠ 0x0A#8 ∧ 0x3A#8 ≠ 0xFF#8 ∧
      ∀ y, alpha y ≠ 0x3A#8) ∧ (0xFE#8 ≠ 0xFF#8 ∧ ∀ y, alpha y ≠ 0xFE#8) :=
  ⟨.inl rfl, ⟨by decide, by decide, by decide, by decide +kernel⟩, by decide, by decide +kernel⟩
theorem witness_UnpackedCountIgnoresSkippedBytes : ∀ ch ∈ [0x21#8, 0x0D#8, 0x0A#8, 0xFF#8, 0x72#8], classify ch ≠ .invalid := by decide +kernel
theorem witness_RdByteExpands :
    (∃ s : State, s.st.fault = false ∧ s.rd.has = true) ∧ State.reset.rd.has = false ∧ 0x41#8 ≠ 0x90#8 ∧ 0xFF#8 ≠ 0x00#8 :=
  ⟨⟨{ State.reset with rd := { has := true, last := 0x41#8 } }, rfl, rfl⟩, rfl, by decide, by decide⟩
theorem witness_RdEndChecksTheMarker : ∃ s : State, s.st.fault = false ∧ s.rd.has = true :=
  ⟨{ State.reset with rd := { has := true, last := 0x41#8 } }, rfl, rfl⟩
theorem witness_ReByteCollectsRuns :
    (∃ s : State, s.st.fault = false ∧ s.re = { haveRun := true, cur := 0x41#8, cnt := 254#8 } ∧ s.re.cnt ≠ 255#8) ∧
    (∃ s : State, s.st.fault = false ∧ s.re.haveRun = true ∧ s.re.cnt = 255#8) ∧
    ∃ s : State, s.st.fault = false ∧ s.re.haveRun = true ∧ 0x42#8 ≠ s.re.cur :=
  ⟨⟨{ State.reset with re := { haveRun := true, cur := 0x41#8, cnt := 254#8 } }, rfl, rfl, by decide⟩,
    ⟨{ State.reset with re := { haveRun := true, cur := 0x41#8, cnt := 255#8 } }, rfl, rfl, rfl⟩,
    ⟨{ State.reset with re := { haveRun := true, cur := 0x41#8, cnt := 1#8 } }, rfl, rfl, by decide⟩⟩
theorem witness_ExpandInvertsRleEncode :
    (∃ s : State, s.st.fault = false ∧ s.ctl.lRePk = false ∧ s.params.wellFormed = true ∧ s.params.reMinRun = 2 ∧
      s.re = { haveRun := false, cur := 0#8, cnt := 0#8 }) ∧
    ∃ s : State, s.st.fault = false ∧ s.ctl.lRePk = false ∧ s.params.wellFormed = true ∧ s.params.reMinRun = 256 ∧
      s.re = { haveRun := false, cur := 0#8, cnt := 0#8 } :=
  ⟨⟨{ State.reset with params := { Params.chosen with reMinRun := 2 } }, rfl, rfl, by decide, rfl, rfl⟩,
    ⟨{ State.reset with params := { Params.chosen with reMinRun := 256 } }, rfl, rfl, by decide, rfl, rfl⟩⟩

/-- A state whose assembler has a given name length, fork lengths, phase and remaining count. -/
def assembling (nlen : BitVec 9) (dlen rlen : BitVec 64) (ph : Phase) (rem : BitVec 32) : State :=
  { State.reset with fa := { FaRegs.reset with nlen := nlen, dlen := dlen, rlen := rlen, ph := ph, rem := rem } }

theorem witness_FaNpushStoresOrSaturates :
    (assembling 254#9 0 0 .cfg 0).fa.ph = .cfg ∧ (assembling 254#9 0 0 .cfg 0).fa.nlen.toNat < 255 ∧
      255 ≤ (assembling 255#9 0 0 .cfg 0).fa.nlen.toNat ∧ 255 ≤ (assembling 256#9 0 0 .cfg 0).fa.nlen.toNat := by decide +kernel
theorem witness_IllegalOpConditions :
    (assembling 0 5 0 .data 5).fa.ph ≠ .cfg ∧ (assembling 0 5 0 .data 5).st.fault = false ∧ State.reset.fa.ph = .cfg ∧
      (assembling 0 0 0 .done 0).fa.ph = .done ∧ State.reset.v.valid = false ∧
      ({ State.reset with params := { Params.chosen with hasFpv := false } } : State).params.hasFpv = false := by decide +kernel
theorem witness_FaHdrEmitsTheHeader :
    (assembling 255#9 0xFFFFFFFF 0 .cfg 0).st.fault = false ∧ (assembling 255#9 0xFFFFFFFF 0 .cfg 0).fa.ph = .cfg ∧
      (assembling 255#9 0xFFFFFFFF 0 .cfg 0).fa.nlen.toNat ≤ 255 ∧
      (assembling 255#9 0xFFFFFFFF 0 .cfg 0).fa.dlen.toNat ≤ 0xFFFFFFFF ∧
      (assembling 255#9 0xFFFFFFFF 0 .cfg 0).fa.rlen.toNat ≤ 0xFFFFFFFF := by decide +kernel
theorem witness_FaHdrReportsTheFirstSizeFault :
    255 < (assembling 256#9 0x100000000 0 .cfg 0).fa.nlen.toNat ∧
      ((assembling 255#9 0x100000000 0 .cfg 0).fa.nlen.toNat ≤ 255 ∧
        0xFFFFFFFF < (assembling 255#9 0x100000000 0 .cfg 0).fa.dlen.toNat) ∧
      ((assembling 0 0xFFFFFFFF 0x100000000 .cfg 0).fa.dlen.toNat ≤ 0xFFFFFFFF ∧
        0xFFFFFFFF < (assembling 0 0xFFFFFFFF 0x100000000 .cfg 0).fa.rlen.toNat) := by decide +kernel
theorem witness_FaPushEmitsAndCloses :
    ((assembling 0 2 0 .data 2).fa.rem ≠ 0#32 ∧ (assembling 0 2 0 .data 2).fa.rem ≠ 1#32) ∧
      ((assembling 0 2 1 .rsrc 1).fa.ph = .rsrc ∧ (assembling 0 2 1 .rsrc 1).fa.rem = 1#32) ∧
      ((assembling 0 2 0 .data 1).fa.ph = .data ∧ (assembling 0 2 0 .data 1).fa.rem = 1#32 ∧
        (assembling 0 2 0 .data 1).fa.rlen = 0#64) ∧
      (assembling 0 2 1 .data 1).fa.rlen ≠ 0#64 := by decide +kernel
theorem witness_FrameIsAssembled :
    ∃ (s : State) (data rsrc : List Byte) (k : Nat), s.st.fault = false ∧ s.fa.ph = .cfg ∧ s.fa.nlen.toNat ≤ 255 ∧
      s.fa.dlen.toNat = data.length ∧ s.fa.rlen.toNat = rsrc.length ∧ data.length ≤ 0xFFFFFFFF ∧ rsrc.length ≤ 0xFFFFFFFF ∧
      k < data.length + rsrc.length :=
  ⟨assembling 255#9 1 2 .cfg 0, [0x90#8], [0x00#8, 0xFF#8], 2, rfl, rfl, by decide +kernel, rfl, rfl, by decide, by decide, by decide⟩
/-- 22 zero bytes: the header of an empty frame, both CRC fields absent; with 26 both are present. -/
theorem witness_FpParseFillsTheView :
    (∃ (s : State) (tail : List Byte) (l d r p : Nat), s.st.fault = false ∧ s.params.hasFpv = true ∧ s.raw = 0#8 :: tail ∧
      l = s.raw.length ∧ (0#8).toNat + 22 ≤ l ∧ d = fieldBE s.raw ((0#8).toNat + 12) 4 ∧
      r = fieldBE s.raw ((0#8).toNat + 16) 4 ∧ (0#8).toNat + 22 + d ≤ l ∧
      p = (if (0#8).toNat + 22 + d + 2 ≤ l then (0#8).toNat + 22 + d + 2 else l) ∧ p + r ≤ l) ∧
    ∃ (s : State) (tail : List Byte), s.raw = 0#8 :: tail ∧ s.raw.length = 26 ∧ fieldBE s.raw 12 4 = 0 ∧ fieldBE s.raw 16 4 = 0 :=
  ⟨⟨{ State.reset with raw := List.replicate 22 0#8 }, List.replicate 21 0#8, 22, 0, 0, 22, rfl, rfl, rfl, rfl, by decide, rfl, rfl,
      by decide, rfl, by decide⟩,
    ⟨{ State.reset with raw := List.replicate 26 0#8 }, List.replicate 25 0#8, rfl, rfl, rfl, rfl⟩⟩
theorem witness_FpParseRejectsTruncation :
    State.reset.raw = [] ∧ (List.replicate 21 0#8).length < (0#8).toNat + 22 ∧
      (helloFrame.take 38).length < (0x0C#8).toNat + 22 + fieldBE (helloFrame.take 38) ((0x0C#8).toNat + 12) 4 ∧
      (let raw := (helloFrame.set 31 0x01#8).take 41
       raw.length < (if (0x0C#8).toNat + 22 + 5 + 2 ≤ raw.length then (0x0C#8).toNat + 22 + 5 + 2 else raw.length) +
         fieldBE raw ((0x0C#8).toNat + 16) 4) := by decide +kernel
theorem witness_VfRunPassesAVerifiedFrame :
    (viewing helloFrame).st.fault = false ∧ (viewing helloFrame).params.hasFpv = true ∧ (viewing helloFrame).v.valid = true ∧
      verifyCrc (slice (viewing helloFrame).raw 0 32) (viewing helloFrame).v.hcrc = true ∧ (viewing helloFrame).v.dlen ≠ 0#32 ∧
      verifyCrc (slice (viewing helloFrame).raw 34 39) (viewing helloFrame).v.dcrc = true ∧
      (viewing helloFrame).v.rlen = 0#32 := by decide +kernel
/-- A changed header byte; a changed data byte; a resource fork of one byte whose CRC is not the stored 0. -/
theorem witness_VfRunReportsTheFirstMismatch :
    verifyCrc (slice (helloFrame.set 1 0x00#8) 0 32) helloView.hcrc = false ∧
      (verifyCrc (slice (helloFrame.set 38 0x00#8) 0 32) helloView.hcrc = true ∧ helloView.dlen ≠ 0#32 ∧
        verifyCrc (slice (helloFrame.set 38 0x00#8) 34 39) helloView.dcrc = false) ∧
      (let v := { helloView with rlen := 1#32, roff := 34 }
       verifyCrc (slice helloFrame 0 32) v.hcrc = true ∧ verifyCrc (slice helloFrame 34 39) v.dcrc = true ∧ v.rlen ≠ 0#32 ∧
        verifyCrc (slice helloFrame 34 35) v.rcrc = false) := by decide +kernel
theorem witness_ParseInvertsTheFrame :
    helloFrame ++ [0xAA#8] = frame defaultName 0#32 0#32 0#16 [0x68#8, 0x65#8, 0x6C#8, 0x6C#8, 0x6F#8] [] ++ [0xAA#8] ∧
      defaultName.length ≤ 255 := by decide +kernel
/-- The first and last data byte, a resource byte, and header bytes 1 and `n + 19`. -/
theorem witness_SingleBitFlipsAreDetected :
    let f := frame [0x61#8] 1#32 2#32 3#16 [0x68#8, 0x69#8] [0x90#8]
    f[23]? = some 0x68#8 ∧ f[24]? = some 0x69#8 ∧ f[27]? = some 0x90#8 ∧ f[1]? = some 0x61#8 ∧ f[20]? = some 0x01#8 := by
  decide +kernel
theorem witness_DecodeRecoversWhatEncodeWrote :
    ∃ (a : EncodeArgs) (s : State) (name : List Byte), s.params.wellFormed = true ∧ s.params.pkFlush = .zeroPad ∧
      name = a.name.getD defaultName ∧ name.length ≤ 255 ∧ a.data.length ≤ 0xFFFFFFFF ∧ a.rsrc.length ≤ 0xFFFFFFFF :=
  ⟨{ name := some (List.replicate 255 0x90#8), type := none, auth := none, flags := some 0xFFFF#16, data := [0x90#8], rsrc := [] },
    State.reset, List.replicate 255 0x90#8, by decide, rfl, rfl, by decide +kernel, by decide, by decide⟩

end Sys2Proof.Tests
end

/-! PROOFS. The command port (rules R17, R68, R71, R80): the decoder reads back an encoded operation, a step executes
what the port decodes to, and a string of commands runs as its operations in order. The last is a simulation: no
operation reads or writes the port (`exec_completesPortBlind`), so executing an operation with the commands behind it still
on the port gives the state of `execAll` with those commands put on its port. -/

namespace Sys2Proof

/-! ### The decoder on encoded operations -/

/-- An operand of a whole number of bytes is read back from its bytes, and the bytes after them are left (R83). -/
theorem withOperand_beBytes {w : Nat} (hw : 8 * (w / 8) = w) (op : BitVec w → Instr) (v : BitVec w)
    (rest : List Byte) : withOperand w op (beBytes (w / 8) v.toNat ++ rest) = .op (op v) rest := by
  have hlen : (beBytes (w / 8) v.toNat).length = w / 8 := beBytes_length _ _
  have hval : fromBE (beBytes (w / 8) v.toNat) = v.toNat := by
    rw [fromBE_beBytes, show 256 = 2 ^ 8 from rfl, ← pow_mul, hw, Nat.mod_eq_of_lt v.isLt]
  have hshort : ¬ (beBytes (w / 8) v.toNat ++ rest).length < w / 8 := by
    rw [List.length_append, hlen]; omega
  rw [withOperand, if_neg hshort, List.take_left' hlen, List.drop_left' hlen, hval, BitVec.ofNat_toNat,
    BitVec.setWidth_eq]

/-- The decoder reads from an encoded operation, whatever follows, that operation and the bytes that follow (R80). -/
theorem decode_encode_append (i : Instr) (rest : List Byte) : decode (encode i ++ rest) = .op i rest := by
  cases i with
  | ctlWr v | crcByte v | pkByte v | upChar v | rdByte v | reByte v | faNpush v | faPush v =>
    exact withOperand_beBytes (w := 8) rfl _ v rest
  | crcVfy v | faFlags v => exact withOperand_beBytes (w := 16) rfl _ v rest
  | faType v | faAuth v => exact withOperand_beBytes (w := 32) rfl _ v rest
  | faDlen v | faRlen v => exact withOperand_beBytes (w := 64) rfl _ v rest
  | nop | coreRst | crcClr | crcFlush | pkClr | pkBegin | pkFlush | pkEnd | upClr | upEnd | rdClr | rdEnd | reClr | reEnd
  | faClr | faNclr | faHdr | fpClr | fpParse | vfRun => rfl

theorem encodeAll_cons (i : Instr) (is : List Instr) : encodeAll (i :: is) = encode i ++ encodeAll is := rfl

namespace Machine

/-! ### One step -/

/-- The step on a port that decodes to an operation (R17). -/
theorem step_of_decode {s : State} {i : Instr} {rest : List Byte} (h : decode s.port = .op i rest) :
    step s = exec i (s.setPort rest) := by
  rw [step, fetch, h]

/-- The step on a port that begins with an encoded operation. -/
theorem step_encode_append (i : Instr) (s : State) (rest : List Byte) :
    step (s.setPort (encode i ++ rest)) = exec i (s.setPort rest) :=
  step_of_decode (decode_encode_append i rest)

/-- A first step that completes hands its state to the remaining steps. -/
theorem run_succ_of_step {M : Host.Core} {s t : M.State} (h : M.step s = .next t) (k : Nat) :
    M.run (k + 1) s = M.run k t := by
  rw [Host.Core.run, h]

/-! ### What does not look at the port -/

/-- `f` neither reads nor writes the command port. -/
def PortBlind (f : State → State) : Prop := ∀ (s : State) (port : List Byte), f (s.setPort port) = (f s).setPort port

namespace PortBlind

variable {f g : State → State}

theorem comp (hg : PortBlind g) (hf : PortBlind f) : PortBlind fun s => g (f s) :=
  fun s port => (congrArg g (hf s port)).trans (hg (f s) port)

/-- A choice whose condition does not look at the port, between blind functions. -/
theorem ite {c : State → Prop} [DecidablePred c] (hc : ∀ s port, c (s.setPort port) ↔ c s) (hf : PortBlind f)
    (hg : PortBlind g) : PortBlind fun s => if c s then f s else g s := fun s port => by
  by_cases h : c s
  · simp only [hc, h, if_true, hf s port]
  · simp only [hc, h, if_false, hg s port]

/-- The legality check of a blind effect (R249). -/
theorem whenLegal {legal : State → Bool} (hl : ∀ s port, legal (s.setPort port) = legal s) (hf : PortBlind f) :
    PortBlind fun s => Machine.whenLegal (legal s) s f := by
  unfold Machine.whenLegal
  exact .ite (fun s port => by rw [hl]) hf fun _ _ => rfl

/-- One section of `VF.RUN` before a blind continuation (R218). -/
theorem verifySection {present : State → Bool} {bytes : State → List Byte} {expected : State → CrcWord} (c : Cause)
    (hp : ∀ s port, present (s.setPort port) = present s) (hb : ∀ s port, bytes (s.setPort port) = bytes s)
    (he : ∀ s port, expected (s.setPort port) = expected s) (hf : PortBlind f) :
    PortBlind fun s => Machine.verifySection (present s) (bytes s) (expected s) c s f := by
  have hcrc : PortBlind fun s => s.setCrc (storedCrc (bytes s)) := fun s port => by
    dsimp only
    rw [hb]; rfl
  have hraise : PortBlind (raise c) := fun _ _ => rfl
  unfold Machine.verifySection
  exact .ite (fun s port => by rw [hp]) (.ite (fun s port => by rw [hb, he]) (hraise.comp hcrc) (hf.comp hcrc)) hf

end PortBlind

/-! ### The units are blind to the port

Each procedure is brought to the form that says what it does (`Laws/Units.lean`); from there it is a composition of
register writes, which commute with the write of the port by `rfl`, and of choices. -/

theorem pkByte_portBlind (b : Byte) : PortBlind (pkByte · b) := by
  simp only [pkByte_eq]
  exact fun _ _ => rfl

theorem pkFlush_portBlind : PortBlind pkFlush := by
  rw [funext pkFlush_eq]
  exact fun _ _ => rfl

theorem rdByte_portBlind (b : Byte) : PortBlind (rdByte · b) := by
  simp only [rdByte_eq]
  exact fun _ _ => rfl

theorem deliverUp_portBlind (bytes : List Byte) : PortBlind (deliverUp · bytes) := by
  simp only [deliverUp_eq]
  exact .ite (fun _ _ => Iff.rfl) (fun _ _ => rfl) fun _ _ => rfl

theorem upSym_portBlind (y : Symbol) : PortBlind (upSym · y) := fun s port => by
  simp only [upSym_eq, State.setPort_up]
  exact congrArg (State.setUp · _) (deliverUp_portBlind _ s port)

theorem deliverRe_portBlind (bytes : List Byte) : PortBlind (deliverRe · bytes) := by
  simp only [deliverRe_eq]
  exact .ite (fun _ _ => Iff.rfl) (fun _ _ => rfl) fun _ _ => rfl

theorem reRun_portBlind (v : Byte) (n : BitVec 8) : PortBlind (reRun · v n) := fun s port => by
  simp only [reRun_eq, State.setPort_params]
  exact deliverRe_portBlind _ s port

theorem reByte_portBlind (b : Byte) : PortBlind (reByte · b) := fun s port => by
  simp only [reByte_eq, State.setPort_params, State.setPort_re]
  exact congrArg (State.setRe · _) (deliverRe_portBlind _ s port)

theorem foldl_portBlind {g : State → Byte → State} (hg : ∀ b, PortBlind (g · b)) (bytes : List Byte) :
    PortBlind fun s => bytes.foldl g s := by
  induction bytes with
  | nil => exact fun _ _ => rfl
  | cons b bs ih => exact ih.comp (hg b)

theorem deliverFa_portBlind (bytes : List Byte) : PortBlind (deliverFa · bytes) := by
  unfold deliverFa
  exact .ite (fun _ _ => Iff.rfl) (foldl_portBlind reByte_portBlind bytes) fun _ _ => rfl

theorem faEmitAll_portBlind (bytes : List Byte) : PortBlind (faEmitAll · bytes) := by
  simp only [faEmitAll_eq]
  exact deliverFa_portBlind bytes

theorem setCrc_portBlind (r : CrcWord) : PortBlind (State.setCrc · r) := fun _ _ => rfl

theorem faNextRsrc_portBlind : PortBlind faNextRsrc := by
  have hdone : PortBlind (State.setFaFork · .done 0#32) := fun _ _ => rfl
  unfold faNextRsrc
  exact .ite (fun _ _ => Iff.rfl) (hdone.comp ((faEmitAll_portBlind _).comp (setCrc_portBlind _))) fun _ _ => rfl

theorem faNextData_portBlind : PortBlind faNextData := by
  unfold faNextData
  exact .ite (fun _ _ => Iff.rfl)
    (faNextRsrc_portBlind.comp ((faEmitAll_portBlind _).comp (setCrc_portBlind _))) fun _ _ => rfl

theorem faEmitHeader_portBlind : PortBlind faEmitHeader := by
  have hemit : PortBlind fun s => faEmitAll (s.setCrc (storedCrc (faHeader s.fa)))
      (faHeader s.fa ++ crcBytes (storedCrc (faHeader s.fa))) :=
    fun s port => (faEmitAll_portBlind _).comp (setCrc_portBlind _) s port
  exact faNextData_portBlind.comp hemit

theorem faCloseFork_portBlind : PortBlind faCloseFork := by
  have hemit : PortBlind fun s => faEmitAll (s.setCrc (crcFlush s.crc)) (crcBytes (crcFlush s.crc)) :=
    fun s port => (faEmitAll_portBlind _).comp (setCrc_portBlind _) s port
  have hdone : PortBlind fun s => s.setFa { s.fa with ph := .done } := fun _ _ => rfl
  unfold faCloseFork
  exact .ite (fun _ _ => Iff.rfl) (faNextRsrc_portBlind.comp hemit) (hdone.comp hemit)

theorem faPushByte_portBlind (b : Byte) : PortBlind (faPushByte · b) := by
  have hcrc : PortBlind fun s => (faEmit s b).setCrc (crcByte s.crc b) := fun s port => by
    simp only [faEmit_eq, State.setPort_crc]
    exact congrArg (State.setCrc · _) (deliverFa_portBlind _ s port)
  have hcount : PortBlind fun s => s.setFa { s.fa with rem := s.fa.rem - 1 } := fun _ _ => rfl
  have hclose : PortBlind fun s => if s.fa.rem = 0#32 then faCloseFork s else s :=
    .ite (fun _ _ => Iff.rfl) faCloseFork_portBlind fun _ _ => rfl
  exact hclose.comp (hcount.comp hcrc)

theorem verifyView_portBlind : PortBlind verifyView :=
  .verifySection _ (fun _ _ => rfl) (fun _ _ => rfl) (fun _ _ => rfl)
    (.verifySection _ (fun _ _ => rfl) (fun _ _ => rfl) (fun _ _ => rfl)
      (.verifySection _ (fun _ _ => rfl) (fun _ _ => rfl) (fun _ _ => rfl) fun _ _ => rfl))

/-! ### Every operation is blind to the port -/

/-- The operation always completes (R284), in the state that a function blind to the port gives: it executes alike whatever
commands stand behind it, and leaves them. -/
def CompletesPortBlind (op : State → Host.Outcome State Fault Refusal) : Prop :=
  ∃ f, PortBlind f ∧ ∀ s, op s = .next (f s)

/-- The issue of a blind effect, faulted or not (R251). -/
theorem issue_completesPortBlind {body : State → State} (h : PortBlind body) :
    CompletesPortBlind fun s => issue s body :=
  ⟨fun s => if s.st.fault then s else body s, .ite (fun _ _ => Iff.rfl) (fun _ _ => rfl) h, fun _ => rfl⟩

theorem execReEnd_completesPortBlind : CompletesPortBlind execReEnd := by
  have hrun : PortBlind fun s => reRun s s.re.cur s.re.cnt := fun s port => reRun_portBlind s.re.cur s.re.cnt s port
  have hclear : PortBlind (State.setRe · { haveRun := false, cur := 0#8, cnt := 0#8 }) := fun _ _ => rfl
  exact issue_completesPortBlind (hclear.comp (.ite (fun _ _ => Iff.rfl) hrun fun _ _ => rfl))

theorem execUpChar_completesPortBlind (imm : BitVec 8) : CompletesPortBlind (execUpChar imm) := by
  unfold execUpChar
  cases classify imm with
  | skip | invalid => exact issue_completesPortBlind fun _ _ => rfl
  | sym y => exact issue_completesPortBlind (upSym_portBlind y)

/-- A configuration operation of the frame assembler (R194 to R200). -/
theorem faConfigure_portBlind (update : FaRegs → FaRegs) : PortBlind (faConfigure · update) :=
  .whenLegal (fun _ _ => rfl) fun _ _ => rfl

theorem execFaHdr_completesPortBlind : CompletesPortBlind execFaHdr :=
  issue_completesPortBlind <| .ite (fun _ _ => Iff.rfl) (fun _ _ => rfl) <|
    .ite (fun _ _ => Iff.rfl) (fun _ _ => rfl) <|
    .ite (fun _ _ => Iff.rfl) (fun _ _ => rfl) <|
    .ite (fun _ _ => Iff.rfl) (fun _ _ => rfl) faEmitHeader_portBlind

theorem execFpParse_completesPortBlind : CompletesPortBlind execFpParse :=
  issue_completesPortBlind <| .whenLegal (fun _ _ => rfl) fun s port => by
    simp only [State.setPort_raw]
    cases parseView s.raw with
    | none | some => rfl

/-- Every operation completes and is blind to the port (R71, R284). -/
theorem exec_completesPortBlind (i : Instr) : CompletesPortBlind (exec i) := by
  cases i with
  | coreRst => exact ⟨coreReset, fun _ _ => rfl, fun _ => rfl⟩
  | nop | ctlWr | crcClr | crcByte | crcFlush | crcVfy | pkClr | pkBegin | upClr | upEnd | rdClr | reClr | faClr =>
    exact issue_completesPortBlind fun _ _ => rfl
  | pkByte imm => exact issue_completesPortBlind (pkByte_portBlind imm)
  | pkFlush => exact issue_completesPortBlind pkFlush_portBlind
  | pkEnd =>
    have hend : PortBlind (State.appendTxt · [Config.colon, Config.cr, Config.lf]) := fun _ _ => rfl
    exact issue_completesPortBlind (hend.comp pkFlush_portBlind)
  | upChar imm => exact execUpChar_completesPortBlind imm
  | rdByte imm => exact issue_completesPortBlind (rdByte_portBlind imm)
  | rdEnd => exact issue_completesPortBlind (.ite (fun _ _ => Iff.rfl) (fun _ _ => rfl) fun _ _ => rfl)
  | reByte imm => exact issue_completesPortBlind (reByte_portBlind imm)
  | reEnd => exact execReEnd_completesPortBlind
  | faNclr | faNpush | faType | faAuth | faFlags | faDlen | faRlen =>
    exact issue_completesPortBlind (faConfigure_portBlind _)
  | faHdr => exact execFaHdr_completesPortBlind
  | faPush imm => exact issue_completesPortBlind (.whenLegal (fun _ _ => rfl) (faPushByte_portBlind imm))
  | fpClr => exact issue_completesPortBlind (.whenLegal (fun _ _ => rfl) fun _ _ => rfl)
  | fpParse => exact execFpParse_completesPortBlind
  | vfRun => exact issue_completesPortBlind (.whenLegal (fun _ _ => rfl) verifyView_portBlind)

/-! ### A string of commands -/

/-- The simulation behind R71 a: the machine with the encoded operations on its port, and `rest` behind them, runs as the
operations executed one after the other with only `rest` on the port. -/
theorem run_encodeAll (is : List Instr) (s : State) (rest : List Byte) :
    core.run is.length (s.setPort (encodeAll is ++ rest)) = execAll is (s.setPort rest) := by
  induction is generalizing s with
  | nil => rfl
  | cons i is ih =>
    obtain ⟨f, hf, hexec⟩ := exec_completesPortBlind i
    have hport : ∀ port, exec i (s.setPort port) = .next ((f s).setPort port) := fun port => by rw [hexec, hf]
    have hstep : step (s.setPort (encodeAll (i :: is) ++ rest)) = .next ((f s).setPort (encodeAll is ++ rest)) := by
      rw [encodeAll_cons, List.append_assoc, step_encode_append, hport]
    have hrun := run_succ_of_step (M := core) hstep is.length
    exact (hrun.trans (ih (f s))).trans (execAll_cons (hport rest) is).symm

/-! ### The obligations -/

/-- Settles O9: the simulation `run_encodeAll`, by induction on the operations. -/
theorem portRunsTheOperationsInOrder : Obligations.PortRunsTheOperationsInOrder := by
  unfold Obligations.PortRunsTheOperationsInOrder
  exact run_encodeAll

/-- Settles O6. -/
theorem stepRunsTheDecodedOperation : Obligations.StepRunsTheDecodedOperation := by
  unfold Obligations.StepRunsTheDecodedOperation
  intro s i rest h
  exact step_of_decode h

end Machine
end Sys2Proof

/-! PROOFS. The state (rules R22 to R36 of `10_state.md`): who writes the control and status registers and `CRC.R`, how
the streams grow, the reset values, and the invariant of R36.

What an operation that is not ignored can do is said once, by shape (`Effect`, tied to the model by `exec_effect`):
bytes gone down the encode path (`Encodes`) or the decode path (`Decodes`), a register written, a unit cleared, a fault
entered. The statements about every operation are then read off the shapes. -/

namespace Sys2Proof.Machine

/-! ### The registers of each unit keep their part of the invariant (R36 a to f) -/

theorem pkSymOut_st (p : PkRegs) (y : Symbol) : (pkSymOut p y).1.st = p.st := by
  unfold pkSymOut; split <;> rfl

theorem pkSymOut_col_le {p : PkRegs} (h : p.col ≤ 63#7) (y : Symbol) : (pkSymOut p y).1.col ≤ 63#7 := by
  unfold pkSymOut
  split
  · simp
  · next hne => bv_omega

/-- The packer's carry after the first byte of a cycle has its low 4 bits clear (R25). -/
theorem carry_of_first_byte (b : Byte) : ((b &&& 0x03#8) <<< 4).setWidth 6 &&& 0x0F#6 = 0#6 := by
  revert b; decide

/-- The packer's carry after the second byte of a cycle has its low 2 bits clear (R25). -/
theorem carry_of_second_byte (b : Byte) : ((b &&& 0x0F#8) <<< 2).setWidth 6 &&& 0x03#6 = 0#6 := by
  revert b; decide

theorem pkByteOut_inv {p : PkRegs} (h : p.Inv) (b : Byte) : (pkByteOut p b).1.Inv := by
  obtain ⟨-, -, -, -, hcol⟩ := h
  unfold pkByteOut
  split
  · exact ⟨by simp, by simp, fun _ => carry_of_first_byte b, by simp, pkSymOut_col_le hcol _⟩
  · split
    · exact ⟨by simp, by simp, by simp, fun _ => carry_of_second_byte b, pkSymOut_col_le hcol _⟩
    · exact ⟨by simp, by simp, by simp, by simp, pkSymOut_col_le (pkSymOut_col_le hcol _) _⟩

theorem pkFlushOut_inv {p : PkRegs} (h : p.Inv) (m : PkFlush) : (pkFlushOut m p).1.Inv := by
  obtain ⟨-, -, -, -, hcol⟩ := h
  unfold pkFlushOut
  split
  · exact ⟨by simp, by simp, by simp, by simp, pkSymOut_col_le hcol _⟩
  · exact ⟨by simp, by simp, by simp, by simp, hcol⟩

theorem upSymOut_inv (u : UpRegs) (y : Symbol) : (upSymOut u y).1.Inv := by
  have hfirst : ∀ y : BitVec 6, (y.setWidth 8 <<< 2) &&& 0x03#8 = 0#8 := by decide
  have hsecond : ∀ y : BitVec 6, ((y &&& 0x0F#6).setWidth 8 <<< 4) &&& 0x0F#8 = 0#8 := by decide
  have hthird : ∀ y : BitVec 6, ((y &&& 0x03#6).setWidth 8 <<< 6) &&& 0x3F#8 = 0#8 := by decide
  unfold upSymOut
  split
  · exact ⟨by simp, fun _ => hfirst y, by simp, by simp⟩
  · split
    · exact ⟨by simp, by simp, fun _ => hsecond y, by simp⟩
    · split
      · exact ⟨by simp, by simp, by simp, fun _ => hthird y⟩
      · exact ⟨by simp, by simp, by simp, by simp⟩

theorem reByteOut_inv {r : ReRegs} (h : r.Inv) (m : Nat) (b : Byte) : (reByteOut m r b).1.Inv := by
  obtain ⟨hidle, hpending⟩ := h
  unfold reByteOut
  split
  · exact ⟨by simp, by simp⟩
  · next hrun =>
    split
    · next hcount => exact ⟨fun hno => absurd hno hrun, fun _ => by obtain ⟨-, hlt⟩ := hcount; bv_omega⟩
    · exact ⟨fun hno => absurd hno hrun, by simp⟩

/-- In phase `CFG` a write of the other configuration registers keeps R36 e, f. -/
theorem FaRegs.inv_of_cfg {f g : FaRegs} (h : f.Inv) (hcfg : f.ph = .cfg) (hnlen : f.nlen ≤ 256#9 → g.nlen ≤ 256#9)
    (hph : g.ph = f.ph) (hrem : g.rem = f.rem) : g.Inv := by
  obtain ⟨hn, hopen, -, -, -⟩ := h
  rw [hcfg] at hph
  exact ⟨hnlen hn, by rw [hph, hrem, ← hopen, hcfg], by simp [hph], by simp [hph], by simp [hph]⟩

theorem faNamePush_inv {f : FaRegs} (h : f.Inv) (hcfg : f.ph = .cfg) (b : Byte) : (faNamePush b f).Inv := by
  unfold faNamePush
  split
  · next hlt => exact FaRegs.inv_of_cfg h hcfg (fun _ => by bv_omega) rfl rfl
  · exact FaRegs.inv_of_cfg h hcfg (fun _ => by simp) rfl rfl

/-- The configuration has passed the checks of `FA.HDR` (R201). -/
abbrev FaRegs.Checked (f : FaRegs) : Prop := f.nlen ≤ 255#9 ∧ f.dlen ≤ Config.maxFork ∧ f.rlen ≤ Config.maxFork

/-- The registers after `fa_next(RSRC)` (R202). -/
def faNextRsrcRegs (f : FaRegs) : FaRegs :=
  if f.rlen = 0#64 then { f with ph := .done, rem := 0#32 } else { f with ph := .rsrc, rem := f.rlen.setWidth 32 }

/-- The registers after `fa_next(DATA)` (R202). -/
def faNextDataRegs (f : FaRegs) : FaRegs :=
  if f.dlen = 0#64 then faNextRsrcRegs f else { f with ph := .data, rem := f.dlen.setWidth 32 }

/-- The registers after the end of the open fork (R203). -/
def faCloseRegs (f : FaRegs) : FaRegs := if f.ph = .data then faNextRsrcRegs f else { f with ph := .done }

/-- The registers after a fork byte (R203). -/
def faPushRegs (f : FaRegs) : FaRegs :=
  if f.rem - 1 = 0#32 then faCloseRegs { f with rem := f.rem - 1 } else { f with rem := f.rem - 1 }

/-- A legal length fits the 32 bits of `FA.REM` (R201, R202). -/
theorem toNat_setWidth_of_le_maxFork {n : BitVec 64} (h : n ≤ Config.maxFork) :
    (n.setWidth 32).toNat = n.toNat := by
  have : n.toNat ≤ 0xFFFFFFFF := BitVec.le_def.mp h
  rw [BitVec.toNat_setWidth, Nat.mod_eq_of_lt (by omega)]

theorem setWidth_ne_zero_of_le_maxFork {n : BitVec 64} (h : n ≤ Config.maxFork) (h0 : n ≠ 0#64) :
    n.setWidth 32 ≠ 0#32 := fun hz => h0 <| BitVec.eq_of_toNat_eq <| by
  rw [← toNat_setWidth_of_le_maxFork h, hz]; rfl

theorem nlen_le_of_checked {f : FaRegs} (h : f.Checked) : f.nlen ≤ 256#9 := by
  obtain ⟨hn, -, -⟩ := h
  bv_omega

theorem faNextRsrcRegs_inv {f : FaRegs} (h : f.Checked) : (faNextRsrcRegs f).Inv := by
  have hn := nlen_le_of_checked h
  have ⟨_, _, hr⟩ := h
  unfold faNextRsrcRegs
  split
  · exact ⟨hn, by simp, by simp, by simp, fun _ => h⟩
  · next h0 =>
    exact ⟨hn, by simpa using setWidth_ne_zero_of_le_maxFork hr h0, by simp,
      fun _ => (toNat_setWidth_of_le_maxFork hr).le, fun _ => h⟩

theorem faNextDataRegs_inv {f : FaRegs} (h : f.Checked) : (faNextDataRegs f).Inv := by
  have hn := nlen_le_of_checked h
  have ⟨_, hd, _⟩ := h
  unfold faNextDataRegs
  split
  · exact faNextRsrcRegs_inv h
  · next h0 =>
    exact ⟨hn, by simpa using setWidth_ne_zero_of_le_maxFork hd h0, fun _ => (toNat_setWidth_of_le_maxFork hd).le,
      by simp, fun _ => h⟩

theorem faCloseRegs_inv {f : FaRegs} (h : f.Checked) (h0 : f.rem = 0#32) : (faCloseRegs f).Inv := by
  unfold faCloseRegs
  split
  · exact faNextRsrcRegs_inv h
  · exact ⟨nlen_le_of_checked h, by simp [h0], by simp, by simp, fun _ => h⟩

theorem faPushRegs_inv {f : FaRegs} (h : f.Inv) (hopen : f.ph = .data ∨ f.ph = .rsrc) : (faPushRegs f).Inv := by
  obtain ⟨hn, hrem, hdata, hrsrc, hchecked⟩ := h
  have hcfg : f.ph ≠ .cfg := by rcases hopen with h | h <;> simp [h]
  have hpos : f.rem ≠ 0#32 := hrem.mp hopen
  have hless : (f.rem - 1).toNat ≤ f.rem.toNat := by bv_omega
  unfold faPushRegs
  split
  · next h0 => exact faCloseRegs_inv (hchecked hcfg) h0
  · next h0 =>
    exact ⟨hn, iff_of_true hopen h0, fun hp => hless.trans (hdata hp), fun hp => hless.trans (hrsrc hp), hchecked⟩

/-- A view that `FP.PARSE` writes is valid (R216). -/
theorem valid_of_parseView {bytes : List Byte} {v : ViewRegs} (h : parseView bytes = some v) : v.valid = true := by
  unfold parseView at h
  split at h
  · cases h
  · split at h
    · cases h
    · unfold parseBody at h
      dsimp only at h
      split at h
      · cases h
      · split at h
        · cases h
        · cases h; rfl

/-! ### Bytes on the encode path -/

/-- `t` is `s` after bytes have reached units of the encode path: only the registers of the packer and of the RLE
encoder and the streams `TXT`, `RLE` and `FRM` differ, the streams have grown (R31), the registers have kept R36 a, b,
d. -/
structure Encodes (s t : State) : Prop where
  frame : t = { s with pk := t.pk, re := t.re, txt := t.txt, rle := t.rle, frm := t.frm }
  pk : s.pk.Inv → t.pk.Inv
  re : s.re.Inv → t.re.Inv
  txt : s.txt <+: t.txt
  rle : s.rle <+: t.rle
  frm : s.frm <+: t.frm

section
variable {s t : State} (h : Encodes s t)
include h
theorem Encodes.ctl : t.ctl = s.ctl := by rw [h.frame]
theorem Encodes.st : t.st = s.st := by rw [h.frame]
theorem Encodes.crc : t.crc = s.crc := by rw [h.frame]
theorem Encodes.pkd : t.pkd = s.pkd := by rw [h.frame]
theorem Encodes.raw : t.raw = s.raw := by rw [h.frame]
end

theorem Encodes.refl (s : State) : Encodes s s :=
  ⟨rfl, id, id, List.prefix_rfl, List.prefix_rfl, List.prefix_rfl⟩

theorem Encodes.trans {s t u : State} (h : Encodes s t) (h' : Encodes t u) : Encodes s u where
  frame := by rw [h'.frame, h.frame]
  pk := h'.pk ∘ h.pk
  re := h'.re ∘ h.re
  txt := h.txt.trans h'.txt
  rle := h.rle.trans h'.rle
  frm := h.frm.trans h'.frm

theorem encodes_setPk_setTxt (s : State) {p : PkRegs} (hp : s.pk.Inv → p.Inv) (bytes : List Byte) :
    Encodes s ((s.setPk p).setTxt (s.txt ++ bytes)) :=
  ⟨rfl, hp, id, List.prefix_append _ _, List.prefix_rfl, List.prefix_rfl⟩

theorem encodes_setRe {s : State} {r : ReRegs} (hr : s.re.Inv → r.Inv) : Encodes s (s.setRe r) :=
  ⟨rfl, id, hr, List.prefix_rfl, List.prefix_rfl, List.prefix_rfl⟩

theorem foldl_encodes {g : State → Byte → State} (hg : ∀ s b, Encodes s (g s b)) (bytes : List Byte) (s : State) :
    Encodes s (bytes.foldl g s) := by
  induction bytes generalizing s with
  | nil => exact .refl s
  | cons b bs ih => exact (hg s b).trans (ih (g s b))

theorem pkByte_encodes (s : State) (b : Byte) : Encodes s (pkByte s b) := by
  rw [pkByte_eq]
  exact encodes_setPk_setTxt s (fun h => pkByteOut_inv h b) _

theorem pkFlush_encodes (s : State) : Encodes s (pkFlush s) := by
  rw [pkFlush_eq]
  exact encodes_setPk_setTxt s (fun h => pkFlushOut_inv h _) _

theorem appendTxt_encodes (s : State) (bytes : List Byte) : Encodes s (s.appendTxt bytes) :=
  encodes_setPk_setTxt s id bytes

theorem deliverRe_encodes (s : State) (bytes : List Byte) : Encodes s (deliverRe s bytes) := by
  unfold deliverRe
  split
  · exact foldl_encodes pkByte_encodes bytes s
  · exact ⟨rfl, id, id, List.prefix_rfl, List.prefix_append _ _, List.prefix_rfl⟩

theorem reRun_encodes (s : State) (v : Byte) (n : BitVec 8) : Encodes s (reRun s v n) := by
  rw [reRun_eq]
  exact deliverRe_encodes s _

theorem reByte_encodes (s : State) (b : Byte) : Encodes s (reByte s b) := by
  rw [reByte_eq]
  exact (deliverRe_encodes s _).trans (encodes_setRe fun h => reByteOut_inv (by rwa [deliverRe_re] at h) _ b)

theorem deliverFa_encodes (s : State) (bytes : List Byte) : Encodes s (deliverFa s bytes) := by
  unfold deliverFa
  split
  · exact foldl_encodes reByte_encodes bytes s
  · exact ⟨rfl, id, id, List.prefix_rfl, List.prefix_rfl, List.prefix_append _ _⟩

/-! ### Bytes on the decode path -/

/-- `t` is `s` after bytes have reached units of the decode path: only the registers of the unpacker and of the RLE
decoder and the streams `PKD` and `RAW` differ, the streams have grown (R31), the registers have kept R36 c. -/
structure Decodes (s t : State) : Prop where
  frame : t = { s with up := t.up, rd := t.rd, pkd := t.pkd, raw := t.raw }
  up : s.up.Inv → t.up.Inv
  pkd : s.pkd <+: t.pkd
  raw : s.raw <+: t.raw

section
variable {s t : State} (h : Decodes s t)
include h
theorem Decodes.ctl : t.ctl = s.ctl := by rw [h.frame]
theorem Decodes.st : t.st = s.st := by rw [h.frame]
theorem Decodes.crc : t.crc = s.crc := by rw [h.frame]
theorem Decodes.frm : t.frm = s.frm := by rw [h.frame]
theorem Decodes.rle : t.rle = s.rle := by rw [h.frame]
theorem Decodes.txt : t.txt = s.txt := by rw [h.frame]
end

theorem Decodes.trans {s t u : State} (h : Decodes s t) (h' : Decodes t u) : Decodes s u where
  frame := by rw [h'.frame, h.frame]
  up := h'.up ∘ h.up
  pkd := h.pkd.trans h'.pkd
  raw := h.raw.trans h'.raw

theorem decodes_setUp {s : State} {u : UpRegs} (hu : u.Inv) : Decodes s (s.setUp u) :=
  ⟨rfl, fun _ => hu, List.prefix_rfl, List.prefix_rfl⟩

theorem decodes_setRd_setRaw (s : State) (r : RdRegs) (bytes : List Byte) :
    Decodes s ((s.setRd r).setRaw (s.raw ++ bytes)) :=
  ⟨rfl, id, List.prefix_rfl, List.prefix_append _ _⟩

theorem rdByte_decodes (s : State) (b : Byte) : Decodes s (rdByte s b) := by
  rw [rdByte_eq]
  exact decodes_setRd_setRaw s _ _

theorem deliverUp_decodes (s : State) (bytes : List Byte) : Decodes s (deliverUp s bytes) := by
  rw [deliverUp_eq]
  split
  · exact decodes_setRd_setRaw s _ _
  · exact ⟨rfl, id, List.prefix_append _ _, List.prefix_rfl⟩

theorem upSym_decodes (s : State) (y : Symbol) : Decodes s (upSym s y) := by
  rw [upSym_eq]
  exact (deliverUp_decodes s _).trans (decodes_setUp (upSymOut_inv s.up y))

/-! ### The frame assembler delivers bytes and writes `CRC.R` and its own registers -/

/-- `s` after the frame assembler has delivered `bytes`, with `CRC.R` and `FA.*` written. -/
def assembled (s : State) (bytes : List Byte) (r : CrcWord) (f : FaRegs) : State :=
  ((deliverFa s bytes).setCrc r).setFa f

@[simp] theorem assembled_fa (s : State) (bytes : List Byte) (r : CrcWord) (f : FaRegs) :
    (assembled s bytes r f).fa = f := rfl

theorem assembled_assembled (s : State) (a b : List Byte) (r q : CrcWord) (f g : FaRegs) :
    assembled (assembled s a r f) b q g = assembled s (a ++ b) q g := by
  unfold assembled
  rw [deliverFa_setFa, deliverFa_setCrc, ← deliverFa_append]
  rfl

theorem setCrc_eq_assembled (s : State) (r : CrcWord) : s.setCrc r = assembled s [] r s.fa := by
  unfold assembled
  rw [deliverFa_nil]
  rfl

theorem faEmitAll_setCrc_eq_assembled (s : State) (r : CrcWord) (bytes : List Byte) :
    faEmitAll (s.setCrc r) bytes = assembled s bytes r s.fa := by
  unfold assembled
  rw [faEmitAll_eq, deliverFa_setCrc, ← deliverFa_fa s bytes]
  rfl

theorem setFa_assembled (s : State) (bytes : List Byte) (r : CrcWord) (f g : FaRegs) :
    (assembled s bytes r f).setFa g = assembled s bytes r g := rfl

/-- Everything `fa_next(RSRC)` does (R202). -/
theorem faNextRsrc_eq_assembled (s : State) : ∃ bytes, faNextRsrc s = assembled s bytes 0#16 (faNextRsrcRegs s.fa) := by
  unfold faNextRsrc faNextRsrcRegs
  split
  · exact ⟨_, by rw [faEmitAll_setCrc_eq_assembled, State.setFaFork_eq, setFa_assembled, assembled_fa]⟩
  · exact ⟨_, by rw [setCrc_eq_assembled, State.setFaFork_eq, setFa_assembled, assembled_fa]⟩

/-- Everything `fa_next(DATA)` does (R202). -/
theorem faNextData_eq_assembled (s : State) : ∃ bytes, faNextData s = assembled s bytes 0#16 (faNextDataRegs s.fa) := by
  unfold faNextData faNextDataRegs
  split
  · obtain ⟨bytes, h⟩ := faNextRsrc_eq_assembled (faEmitAll (s.setCrc 0x0000#16) [0x00#8, 0x00#8])
    rw [faEmitAll_setCrc_eq_assembled] at h ⊢
    exact ⟨_, by rw [h, assembled_assembled, assembled_fa]⟩
  · exact ⟨_, by rw [setCrc_eq_assembled, State.setFaFork_eq, setFa_assembled, assembled_fa]⟩

/-- Everything `FA.HDR` does after its checks (R201). -/
theorem faEmitHeader_eq_assembled (s : State) :
    ∃ bytes, faEmitHeader s = assembled s bytes 0#16 (faNextDataRegs s.fa) := by
  unfold faEmitHeader
  rw [faEmitAll_setCrc_eq_assembled]
  obtain ⟨bytes, h⟩ := faNextData_eq_assembled
    (assembled s (faHeader s.fa ++ crcBytes (storedCrc (faHeader s.fa))) (storedCrc (faHeader s.fa)) s.fa)
  exact ⟨_, by rw [h, assembled_assembled, assembled_fa]⟩

/-- Everything the end of a fork does (R203). -/
theorem faCloseFork_eq_assembled (s : State) :
    ∃ bytes r, faCloseFork s = assembled s bytes r (faCloseRegs s.fa) := by
  unfold faCloseFork faCloseRegs
  rw [faEmitAll_setCrc_eq_assembled]
  split
  · obtain ⟨bytes, h⟩ := faNextRsrc_eq_assembled (assembled s (crcBytes (crcFlush s.crc)) (crcFlush s.crc) s.fa)
    exact ⟨_, _, by rw [h, assembled_assembled, assembled_fa]⟩
  · exact ⟨_, _, by rw [setFa_assembled, assembled_fa]⟩

/-- Everything `FA.PUSH` does in an open phase (R203). -/
theorem faPushByte_eq_assembled (s : State) (b : Byte) :
    ∃ bytes r, faPushByte s b = assembled s bytes r (faPushRegs s.fa) := by
  have hcount : (((faEmit s b).setCrc (crcByte s.crc b)).setFa
      { ((faEmit s b).setCrc (crcByte s.crc b)).fa with
        rem := ((faEmit s b).setCrc (crcByte s.crc b)).fa.rem - 1 }) =
      assembled s [b] (crcByte s.crc b) { s.fa with rem := s.fa.rem - 1 } := by
    rw [faEmit_eq, State.setCrc_fa, deliverFa_fa]
    rfl
  unfold faPushByte faPushRegs
  dsimp only
  rw [hcount, assembled_fa]
  split
  · obtain ⟨bytes, r, h⟩ := faCloseFork_eq_assembled
      (assembled s [b] (crcByte s.crc b) { s.fa with rem := s.fa.rem - 1 })
    exact ⟨_, _, by rw [h, assembled_assembled, assembled_fa]⟩
  · exact ⟨_, _, rfl⟩

/-! ### What an operation can do -/

/-- The operations that write `CRC.R` without resetting the core (R24). -/
def WritesCrc (i : Instr) : Prop :=
  i = .crcClr ∨ (∃ imm, i = .crcByte imm) ∨ i = .crcFlush ∨ (∃ imm, i = .crcVfy imm) ∨ i = .faHdr ∨
    (∃ imm, i = .faPush imm) ∨ i = .vfRun

/-- Everything an operation other than `CORE.RST`, issued from `s` without a fault there, can do, by the shape of the
next state. Register values that R36 restricts come with the proof that they are kept legal. -/
inductive Effect (s : State) : Instr → State → Prop where
  /-- Nothing: `NOP`, `RD.END` without a marker, a skipped character. -/
  | none (i : Instr) : Effect s i s
  /-- `CTL.WR`. -/
  | ctl (imm : BitVec 8) : Effect s (.ctlWr imm) (s.setCtl (ctlOfOperand imm))
  /-- A value written to `CRC.R`: the CRC operations, and `VF.RUN` without a mismatch. -/
  | crc {i : Instr} (hi : WritesCrc i) (r : CrcWord) : Effect s i (s.setCrc r)
  /-- `CRC.VFY`. -/
  | verifyCrc (imm : BitVec 16) (r : CrcWord) (ok : Bool) : Effect s (.crcVfy imm) ((s.setCrc r).setVok ok)
  /-- Bytes on the encode path: the other operations of the packer and the RLE encoder. -/
  | encode (i : Instr) {t : State} (h : Encodes s t) : Effect s i t
  /-- Bytes on the decode path: the other operations of the unpacker and the RLE decoder. -/
  | decode (i : Instr) {t : State} (h : Decodes s t) : Effect s i t
  /-- A configuration operation of the frame assembler. -/
  | configure (i : Instr) {f : FaRegs} (hf : s.fa.Inv → f.Inv) : Effect s i (s.setFa f)
  /-- `FA.HDR` and `FA.PUSH`. -/
  | assemble {i : Instr} (hi : WritesCrc i) (bytes : List Byte) (r : CrcWord) {f : FaRegs}
      (hf : s.fa.Inv → f.Inv) : Effect s i (assembled s bytes r f)
  /-- `FP.CLR` and `FP.PARSE`. -/
  | view (i : Instr) {v : ViewRegs} (hv : v.valid = false → v = ViewRegs.reset) : Effect s i (s.setV v)
  /-- `PK.CLR`. -/
  | pkClear : Effect s .pkClr ((s.setPk PkRegs.reset).setTxt [])
  /-- `UP.CLR`. -/
  | upClear : Effect s .upClr ((s.setUp UpRegs.reset).setPkd [])
  /-- `RD.CLR`. -/
  | rdClear : Effect s .rdClr ((s.setRd RdRegs.reset).setRaw [])
  /-- `RE.CLR`. -/
  | reClear : Effect s .reClr ((s.setRe ReRegs.reset).setRle [])
  /-- `FA.CLR`. -/
  | faClear : Effect s .faClr ((s.setFa FaRegs.reset).setFrm [])
  /-- Fault entry before any other effect. -/
  | fault {i : Instr} {c : Cause} (hc : c ∈ mayRaise i) : Effect s i (raise c s)
  /-- A mismatch in `VF.RUN`, which leaves the section's CRC in `CRC.R`. -/
  | mismatch {c : Cause} (hc : c ∈ mayRaise .vfRun) (r : CrcWord) : Effect s .vfRun (raise c (s.setCrc r))

theorem whenLegal_effect {s : State} {i : Instr} {legal : Bool} {body : State → State}
    (hi : Cause.illegalOp ∈ mayRaise i) (hbody : legal = true → Effect s i (body s)) :
    Effect s i (whenLegal legal s body) := by
  obtain ⟨hlegal, heq⟩ | ⟨-, heq⟩ := whenLegal_cases legal s body
  · rw [heq]; exact hbody hlegal
  · rw [heq]; exact .fault hi

/-- A configuration operation whose update keeps R36 e, f in phase `CFG` (R194 to R200). -/
theorem faConfigure_effect {s : State} {i : Instr} {update : FaRegs → FaRegs} (hi : Cause.illegalOp ∈ mayRaise i)
    (hupdate : s.fa.Inv → s.fa.ph = .cfg → (update s.fa).Inv) : Effect s i (faConfigure s update) :=
  whenLegal_effect hi fun hlegal => .configure i fun h => hupdate h (of_decide_eq_true hlegal)

/-- `o` is the issue, from `s`, of an effect that `i` can have. -/
def Issues (s : State) (i : Instr) (o : Host.Outcome State Fault Refusal) : Prop :=
  ∃ body, o = issue s body ∧ Effect s i (body s)

theorem execUpChar_issues (s : State) (imm : BitVec 8) : Issues s (.upChar imm) (execUpChar imm s) := by
  refine ⟨_, rfl, ?_⟩
  cases classify imm with
  | skip => exact .none _
  | invalid => exact .fault (by simp [mayRaise])
  | sym y => exact .decode _ (upSym_decodes s y)

theorem execRdEnd_issues (s : State) : Issues s .rdEnd (execRdEnd s) := by
  refine ⟨_, rfl, ?_⟩
  split
  · exact .fault (by decide)
  · exact .none _

theorem execReEnd_issues (s : State) : Issues s .reEnd (execReEnd s) := by
  have hrun : Encodes s (if s.re.haveRun then reRun s s.re.cur s.re.cnt else s) := by
    split
    · exact reRun_encodes s _ _
    · exact .refl s
  exact ⟨_, rfl, .encode _ (hrun.trans (encodes_setRe fun _ => by decide))⟩

theorem execFaHdr_issues (s : State) : Issues s .faHdr (execFaHdr s) := by
  refine ⟨_, rfl, ?_⟩
  split_ifs with hph hn hd hr
  · exact .fault (by decide)
  · exact .fault (by decide)
  · exact .fault (by decide)
  · exact .fault (by decide)
  · have hchecked : s.fa.Checked :=
      ⟨BitVec.le_def.mpr (not_lt.mp hn), BitVec.not_lt.mp hd, BitVec.not_lt.mp hr⟩
    obtain ⟨bytes, h⟩ := faEmitHeader_eq_assembled s
    rw [h]
    exact .assemble (by simp [WritesCrc]) bytes _ fun _ => faNextDataRegs_inv hchecked

theorem execFaPush_issues (s : State) (imm : BitVec 8) : Issues s (.faPush imm) (execFaPush imm s) := by
  refine ⟨_, rfl, whenLegal_effect (by simp [mayRaise]) fun hlegal => ?_⟩
  obtain ⟨bytes, r, h⟩ := faPushByte_eq_assembled s imm
  rw [h]
  exact .assemble (by simp [WritesCrc]) bytes r fun hinv => faPushRegs_inv hinv (of_decide_eq_true hlegal)

theorem execFpParse_issues (s : State) : Issues s .fpParse (execFpParse s) := by
  refine ⟨_, rfl, whenLegal_effect (by decide) fun _ => ?_⟩
  cases h : parseView s.raw with
  | none => exact .fault (by decide)
  | some v => exact .view _ fun hv => absurd (valid_of_parseView h) (by simp [hv])

/-- One section of `VF.RUN` (R218), reached with any value in `CRC.R`. -/
theorem verifySection_effect {s : State} {c : Cause} {rest : State → State} (hc : c ∈ mayRaise .vfRun)
    (hrest : ∀ r, Effect s .vfRun (rest (s.setCrc r))) (present : Bool) (bytes : List Byte) (e r : CrcWord) :
    Effect s .vfRun (verifySection present bytes e c (s.setCrc r) rest) := by
  obtain ⟨-, heq⟩ | ⟨-, -, heq⟩ | ⟨-, -, heq⟩ := verifySection_cases present bytes e c (s.setCrc r) rest
  · rw [heq]; exact hrest r
  · rw [heq]; exact hrest _
  · rw [heq]; exact .mismatch hc _

theorem verifyView_effect (s : State) : Effect s .vfRun (verifyView s) :=
  verifySection_effect (by decide)
    (fun _ => verifySection_effect (by decide)
      (fun _ => verifySection_effect (by decide) (fun r => .crc (by simp [WritesCrc]) r) _ _ _ _) _ _ _ _)
    _ _ _ s.crc

/-- Every operation other than `CORE.RST` issues an effect of one of these shapes (R251). -/
theorem exec_issues {i : Instr} (hi : i ≠ .coreRst) (s : State) : Issues s i (exec i s) := by
  unfold exec
  cases i with
  | coreRst => exact absurd rfl hi
  | nop => exact ⟨_, rfl, .none _⟩
  | ctlWr imm => exact ⟨_, rfl, .ctl imm⟩
  | crcClr | crcByte | crcFlush => exact ⟨_, rfl, .crc (by simp [WritesCrc]) _⟩
  | crcVfy imm => exact ⟨_, rfl, .verifyCrc imm _ _⟩
  | pkClr => exact ⟨_, rfl, .pkClear⟩
  | pkBegin => exact ⟨_, rfl, .encode _ (appendTxt_encodes s _)⟩
  | pkByte imm => exact ⟨_, rfl, .encode _ (pkByte_encodes s imm)⟩
  | pkFlush => exact ⟨_, rfl, .encode _ (pkFlush_encodes s)⟩
  | pkEnd => exact ⟨_, rfl, .encode _ ((pkFlush_encodes s).trans (appendTxt_encodes _ _))⟩
  | upClr => exact ⟨_, rfl, .upClear⟩
  | upChar imm => exact execUpChar_issues s imm
  | upEnd => exact ⟨_, rfl, .decode _ (decodes_setUp (by decide))⟩
  | rdClr => exact ⟨_, rfl, .rdClear⟩
  | rdByte imm => exact ⟨_, rfl, .decode _ (rdByte_decodes s imm)⟩
  | rdEnd => exact execRdEnd_issues s
  | reClr => exact ⟨_, rfl, .reClear⟩
  | reByte imm => exact ⟨_, rfl, .encode _ (reByte_encodes s imm)⟩
  | reEnd => exact execReEnd_issues s
  | faClr => exact ⟨_, rfl, .faClear⟩
  | faNpush imm =>
    exact ⟨_, rfl, faConfigure_effect (by simp [mayRaise]) fun hinv hph => faNamePush_inv hinv hph imm⟩
  | faNclr =>
    exact ⟨_, rfl, faConfigure_effect (by decide) fun hinv hph => FaRegs.inv_of_cfg hinv hph (fun _ => by simp) rfl rfl⟩
  | faType | faAuth | faFlags | faDlen | faRlen =>
    exact ⟨_, rfl, faConfigure_effect (by simp [mayRaise]) fun hinv hph => FaRegs.inv_of_cfg hinv hph id rfl rfl⟩
  | faHdr => exact execFaHdr_issues s
  | faPush imm => exact execFaPush_issues s imm
  | fpClr => exact ⟨_, rfl, whenLegal_effect (by decide) fun _ => .view _ fun _ => rfl⟩
  | fpParse => exact execFpParse_issues s
  | vfRun => exact ⟨_, rfl, whenLegal_effect (by decide) fun _ => verifyView_effect s⟩

/-- Everything an operation other than `CORE.RST` can do: nothing while faulted (R251), else its effect. -/
theorem exec_effect {i : Instr} {s t : State} (hi : i ≠ .coreRst) (h : exec i s = .next t) :
    (s.st.fault = true ∧ t = s) ∨ (s.st.fault = false ∧ Effect s i t) := by
  obtain ⟨body, hbody, heffect⟩ := exec_issues hi s
  rw [hbody] at h
  obtain ⟨hf, rfl⟩ | ⟨hf, rfl⟩ := issue_cases h
  · exact .inl ⟨hf, rfl⟩
  · exact .inr ⟨hf, heffect⟩

/-! ### `ST` and `CTL` as the host reads them (R22, R23) -/

theorem stByte_fields (s : State) :
    s.stByte.getLsbD 0 = s.st.fault ∧ s.stByte.extractLsb' 1 4 = s.st.cause ∧ s.stByte.getLsbD 5 = s.st.vok ∧
      s.stByte.extractLsb' 6 2 = 0#2 := by
  unfold State.stByte
  generalize s.st.fault = fault, s.st.cause = cause, s.st.vok = vok
  revert fault cause vok
  decide

theorem ctlByte_fields (s : State) :
    s.ctlByte.getLsbD 0 = s.ctl.lFaRe ∧ s.ctlByte.getLsbD 1 = s.ctl.lRePk ∧ s.ctlByte.getLsbD 2 = s.ctl.lUpRd ∧
      s.ctlByte.extractLsb' 3 5 = 0#5 := by
  unfold State.ctlByte
  generalize s.ctl.lFaRe = a, s.ctl.lRePk = b, s.ctl.lUpRd = c
  revert a b c
  decide

/-! ### The invariant (R36) -/

/-- The part of the invariant that speaks of the units' registers and the parameters; the rest is `State.FaultInv`. -/
structure State.RegsInv (s : State) : Prop where
  pk : s.pk.Inv
  up : s.up.Inv
  re : s.re.Inv
  fa : s.fa.Inv
  params : s.params.wellFormed = true
  v : s.v.valid = false → s.v = ViewRegs.reset

/-- Bits 7:3 of `CTL` are hard-wired to 0 (R22), so R36 h holds of every state. -/
theorem ctlByte_shiftRight (s : State) : s.ctlByte >>> 3 = 0#8 := by
  unfold State.ctlByte
  cases s.ctl.lUpRd <;> cases s.ctl.lRePk <;> cases s.ctl.lFaRe <;> rfl

theorem State.inv_iff (s : State) : s.Inv ↔ s.RegsInv ∧ s.FaultInv where
  mp := fun ⟨hpk, hup, hre, hfa, hfault, _, hparams, hv⟩ => ⟨⟨hpk, hup, hre, hfa, hparams, hv⟩, hfault⟩
  mpr := fun ⟨⟨hpk, hup, hre, hfa, hparams, hv⟩, hfault⟩ =>
    ⟨hpk, hup, hre, hfa, hfault, ctlByte_shiftRight s, hparams, hv⟩

theorem Encodes.regsInv {s t : State} (h : Encodes s t) (hs : s.RegsInv) : t.RegsInv := by
  rw [h.frame]
  exact { hs with pk := h.pk hs.pk, re := h.re hs.re }

theorem Decodes.regsInv {s t : State} (h : Decodes s t) (hs : s.RegsInv) : t.RegsInv := by
  rw [h.frame]
  exact { hs with up := h.up hs.up }

theorem PkRegs.reset_inv : PkRegs.reset.Inv := by decide
theorem UpRegs.reset_inv : UpRegs.reset.Inv := by decide
theorem ReRegs.reset_inv : ReRegs.reset.Inv := by decide
theorem FaRegs.reset_inv : FaRegs.reset.Inv := ⟨by decide, by decide, by decide, by decide, by decide⟩

theorem Effect.regsInv {s t : State} {i : Instr} (h : Effect s i t) (hs : s.RegsInv) : t.RegsInv := by
  cases h with
  | none | ctl | crc | verifyCrc | rdClear | fault | mismatch => exact { hs with }
  | encode _ h => exact h.regsInv hs
  | decode _ h => exact h.regsInv hs
  | configure _ hf => exact { hs with fa := hf hs.fa }
  | assemble _ bytes r hf => exact { (deliverFa_encodes s bytes).regsInv hs with fa := hf hs.fa }
  | view _ hv => exact { hs with v := hv }
  | pkClear => exact { hs with pk := PkRegs.reset_inv }
  | upClear => exact { hs with up := UpRegs.reset_inv }
  | reClear => exact { hs with re := ReRegs.reset_inv }
  | faClear => exact { hs with fa := FaRegs.reset_inv }

/-- Who writes `ST` (R23): fault entry, which empties the streams, and `CRC.VFY`, which writes `VOK`. -/
theorem Effect.status {s t : State} {i : Instr} (h : Effect s i t) :
    (∃ c ∈ mayRaise i, t.st = { s.st with fault := true, cause := c.code } ∧ t.StreamsEmpty) ∨
      t.st = s.st ∨ ∃ imm ok, i = .crcVfy imm ∧ t.st = { s.st with vok := ok } := by
  cases h with
  | none | ctl | crc | configure | view | pkClear | upClear | rdClear | reClear | faClear => exact .inr (.inl rfl)
  | verifyCrc imm r ok => exact .inr (.inr ⟨imm, ok, rfl, rfl⟩)
  | encode _ h => exact .inr (.inl h.st)
  | decode _ h => exact .inr (.inl h.st)
  | assemble _ bytes r hf => exact .inr (.inl (deliverFa_st s bytes))
  | fault hc | mismatch hc => exact .inl ⟨_, hc, rfl, rfl, rfl, rfl, rfl, rfl⟩

theorem Effect.faultInv {s t : State} {i : Instr} (h : Effect s i t) (hrun : s.st.fault = false) (hs : s.FaultInv) :
    t.FaultInv := by
  obtain ⟨hcause, -⟩ := hs
  obtain ⟨c, -, hst, hempty⟩ | hst | ⟨-, ok, -, hst⟩ := h.status
  · rw [State.FaultInv, hst]
    exact ⟨by simp, fun _ => ⟨c.code_range.1, c.code_range.2, hempty⟩⟩
  · rw [State.FaultInv, hst]
    exact ⟨hcause, by simp [hrun]⟩
  · rw [State.FaultInv, hst]
    exact ⟨hcause, by simp [hrun]⟩

theorem Effect.inv {s t : State} {i : Instr} (h : Effect s i t) (hrun : s.st.fault = false) (hs : s.Inv) : t.Inv := by
  obtain ⟨hregs, hfault⟩ := s.inv_iff.mp hs
  exact t.inv_iff.mpr ⟨h.regsInv hregs, h.faultInv hrun hfault⟩

theorem raise_inv {s : State} (c : Cause) (h : s.Inv) : (raise c s).Inv :=
  (raise c s).inv_iff.mpr
    ⟨{ (s.inv_iff.mp h).1 with }, nofun, fun _ => ⟨c.code_range.1, c.code_range.2, rfl, rfl, rfl, rfl, rfl⟩⟩

theorem coreReset_inv {s : State} (h : s.params.wellFormed = true) : (coreReset s).Inv :=
  (coreReset s).inv_iff.mpr
    ⟨⟨PkRegs.reset_inv, UpRegs.reset_inv, ReRegs.reset_inv, FaRegs.reset_inv, h, fun _ => rfl⟩, fun _ => rfl, nofun⟩

theorem exec_inv {i : Instr} {s t : State} (hs : s.Inv) (h : exec i s = .next t) : t.Inv := by
  by_cases hi : i = .coreRst
  · subst hi
    cases h
    exact coreReset_inv (s.inv_iff.mp hs).1.params
  · obtain ⟨-, rfl⟩ | ⟨hrun, heffect⟩ := exec_effect hi h
    · exact hs
    · exact heffect.inv hrun hs

theorem execReserved_inv {s t : State} (hs : s.Inv) (h : execReserved s = .next t) : t.Inv := by
  obtain ⟨-, rfl⟩ | ⟨-, rfl⟩ := issue_cases h
  · exact hs
  · exact raise_inv _ hs

theorem setPort_inv {s : State} (h : s.Inv) (port : List Byte) : (s.setPort port).Inv := h

/-! ### The writers of `CTL` and `CRC.R`, and the streams -/

/-- Who writes `CTL` (R22). -/
theorem Effect.ctl_writers {s t : State} {i : Instr} (h : Effect s i t) (hne : t.ctl ≠ s.ctl) :
    ∃ imm, i = .ctlWr imm := by
  cases h with
  | ctl imm => exact ⟨imm, rfl⟩
  | encode _ h => exact absurd h.ctl hne
  | decode _ h => exact absurd h.ctl hne
  | assemble _ bytes r hf => exact absurd (deliverFa_ctl s bytes) hne
  | none | crc | verifyCrc | configure | view | pkClear | upClear | rdClear | reClear | faClear | fault | mismatch =>
    exact absurd rfl hne

/-- Who writes `CRC.R` (R24). -/
theorem Effect.crc_writers {s t : State} {i : Instr} (h : Effect s i t) (hne : t.crc ≠ s.crc) : WritesCrc i := by
  cases h with
  | crc hi | assemble hi => exact hi
  | verifyCrc | mismatch => simp [WritesCrc]
  | encode _ h => exact absurd h.crc hne
  | decode _ h => exact absurd h.crc hne
  | none | ctl | configure | view | pkClear | upClear | rdClear | reClear | faClear | fault => exact absurd rfl hne

/-- From `s` to `t` every stream has grown, but for the one that `i` clears (R31). -/
abbrev GrowsBut (i : Instr) (s t : State) : Prop :=
  (i ≠ .faClr → s.frm <+: t.frm) ∧ (i ≠ .reClr → s.rle <+: t.rle) ∧ (i ≠ .pkClr → s.txt <+: t.txt) ∧
    (i ≠ .upClr → s.pkd <+: t.pkd) ∧ (i ≠ .rdClr → s.raw <+: t.raw)

theorem growsBut_of_streams {s t : State} (i : Instr) (hfrm : s.frm <+: t.frm) (hrle : s.rle <+: t.rle)
    (htxt : s.txt <+: t.txt) (hpkd : s.pkd <+: t.pkd) (hraw : s.raw <+: t.raw) : GrowsBut i s t :=
  ⟨fun _ => hfrm, fun _ => hrle, fun _ => htxt, fun _ => hpkd, fun _ => hraw⟩

theorem growsBut_refl (i : Instr) (s : State) : GrowsBut i s s :=
  growsBut_of_streams i List.prefix_rfl List.prefix_rfl List.prefix_rfl List.prefix_rfl List.prefix_rfl

theorem Encodes.growsBut {s t : State} (h : Encodes s t) (i : Instr) : GrowsBut i s t :=
  growsBut_of_streams i h.frm h.rle h.txt (h.pkd ▸ List.prefix_rfl) (h.raw ▸ List.prefix_rfl)

theorem Decodes.growsBut {s t : State} (h : Decodes s t) (i : Instr) : GrowsBut i s t :=
  growsBut_of_streams i (h.frm ▸ List.prefix_rfl) (h.rle ▸ List.prefix_rfl) (h.txt ▸ List.prefix_rfl) h.pkd h.raw

/-- Without fault entry an effect leaves every stream in place but the one its operation clears (R31). -/
theorem Effect.growsBut {s t : State} {i : Instr} (h : Effect s i t) (hrun : t.st.fault = false) : GrowsBut i s t := by
  cases h with
  | none | ctl | crc | verifyCrc | configure | view => exact growsBut_refl _ s
  | encode _ h => exact h.growsBut _
  | decode _ h => exact h.growsBut _
  | assemble _ bytes => exact (deliverFa_encodes s bytes).growsBut _
  | pkClear | upClear | rdClear | reClear | faClear => simp [GrowsBut]
  | fault | mismatch => cases hrun

/-! ### The values after reset (R34) -/

/-- The name buffer after reset: the default name, then zero bytes (R29). -/
theorem nameBuffer_reset_get (i : Fin 255) :
    (NameBuffer.reset.get i).toNat =
      ([0x55, 0x6E, 0x74, 0x69, 0x74, 0x6C, 0x65, 0x64, 0x2E, 0x68, 0x71, 0x78] : List Nat).getD i.val 0 := by
  have hlength : i.val < (defaultName ++ List.replicate 243 0#8).length := by
    rw [List.length_append, List.length_replicate]; exact i.isLt
  have hlist : NameBuffer.reset.get i = (defaultName ++ List.replicate 243 0#8).getD i.val 0#8 := by
    rw [List.getD_eq_getElem _ _ hlength, Vector.get_eq_getElem]
    simp only [NameBuffer.reset, Vector.getElem_mk, List.getElem_toArray]
  have hpad : (defaultName ++ List.replicate 243 0#8).getD i.val 0#8 = defaultName.getD i.val 0#8 := by
    rcases lt_or_ge i.val defaultName.length with h | h
    · exact List.getD_append _ _ _ _ h
    · rw [List.getD_append_right _ _ _ _ h, List.getD_eq_default _ _ h, List.getD_eq_getElem?_getD,
        List.getElem?_getD_replicate_default_eq]
  rw [hlist, hpad]
  exact (List.getD_map ..).symm
/-- The table of R34. -/
def resetValue : Reg → Nat
  | .faName i => ([0x55, 0x6E, 0x74, 0x69, 0x74, 0x6C, 0x65, 0x64, 0x2E, 0x68, 0x71, 0x78] : List Nat).getD i.val 0
  | .faNlen => 12
  | _ => 0

theorem readReg_coreReset (s : State) (r : Reg) : readReg (coreReset s) r = resetValue r := by
  have hctl : State.reset.ctlByte.toNat = 0 := by decide
  have hst : State.reset.stByte.toNat = 0 := by decide
  cases r with
  | ctl => exact hctl
  | st => exact hst
  | faName i => exact nameBuffer_reset_get i
  | _ => rfl

theorem readStream_coreReset (s : State) (q : Stream) : readStream (coreReset s) q = [] := by cases q <;> rfl

/-! ### The obligations -/

/-- Settles O13: an operation has an effect of one of the shapes of `Effect`, each of which keeps the invariant. -/
theorem stepKeepsTheInvariant : Obligations.StepKeepsTheInvariant := by
  unfold Obligations.StepKeepsTheInvariant
  intro s t hs h
  unfold step at h
  split at h
  · exact exec_inv (setPort_inv hs _) h
  · exact execReserved_inv (setPort_inv hs _) h
  · cases h; exact hs

/-- Settles O14: power-on is a `CORE.RST` with the chosen parameters. -/
theorem resetHasTheInvariant : Obligations.ResetHasTheInvariant :=
  coreReset_inv (s := State.reset) rfl

/-- Settles O20. -/
theorem controlStatusAndCrcHaveTheListedWriters : Obligations.ControlStatusAndCrcHaveTheListedWriters := by
  unfold Obligations.ControlStatusAndCrcHaveTheListedWriters
  intro i s t h hi
  obtain ⟨-, rfl⟩ | ⟨hrun, heffect⟩ := exec_effect hi h
  · simp
  · obtain ⟨c, hc, hst, -⟩ | hst | ⟨imm, ok, rfl, hst⟩ := heffect.status
    · exact ⟨heffect.ctl_writers, by simp [hst], fun _ => ⟨hrun, c, hc, hst⟩, by simp [hst, hrun],
        heffect.crc_writers⟩
    · exact ⟨heffect.ctl_writers, by simp [hst], by simp [hst], by simp [hst], heffect.crc_writers⟩
    · exact ⟨heffect.ctl_writers, fun _ => ⟨imm, rfl⟩, by simp [hst], by simp [hst], heffect.crc_writers⟩

/-- Settles O21. -/
theorem streamsOnlyGrow : Obligations.StreamsOnlyGrow := by
  unfold Obligations.StreamsOnlyGrow
  intro i s t h hi hrunning
  obtain ⟨-, rfl⟩ | ⟨hrun, heffect⟩ := exec_effect hi h
  · exact growsBut_refl i t
  · exact heffect.growsBut (hrunning hrun)

/-- Settles O18: power-on is a `CORE.RST` with the chosen parameters. -/
theorem coreRstLeavesTheListedValues : Obligations.CoreRstLeavesTheListedValues := by
  unfold Obligations.CoreRstLeavesTheListedValues
  refine ⟨rfl, fun s => ⟨coreReset s, rfl⟩, fun t ht => ?_⟩
  obtain ⟨s, rfl⟩ : ∃ s, t = coreReset s := by
    obtain rfl | ⟨s, h⟩ := ht
    · exact ⟨State.reset, rfl⟩
    · cases h; exact ⟨s, rfl⟩
  exact ⟨fun r => (readReg_coreReset s r).trans (by cases r <;> rfl), readStream_coreReset s⟩

/-- Settles O19. -/
theorem controlAndStatusReadTheirFields : Obligations.ControlAndStatusReadTheirFields := by
  unfold Obligations.ControlAndStatusReadTheirFields
  exact fun s => ⟨stByte_fields s, ctlByte_fields s⟩

end Sys2Proof.Machine

/-! PROOFS. The command encoding (rules R80 to R85) and the operations that write fixed register values: the `CLR`
operations (R271) and the configuration of the frame assembler (R196 to R200).

What the decoder can answer at an opcode byte is said once (`Reading`, tied to the decoder by `decode_reading`), each
answer with the encoding it stands for; the statements about the decoder are read off the answers. -/

namespace Sys2Proof

/-! ### Operand bytes (R83) -/

/-- Byte `n` of a number, counted from the least significant one. -/
theorem ofNat_toNat_div_eq_extractLsb' {w : Nat} (v : BitVec w) (n : Nat) :
    BitVec.ofNat 8 (v.toNat / 256 ^ n) = v.extractLsb' (8 * n) 8 := by
  rw [BitVec.extractLsb', Nat.shiftRight_eq_div_pow, pow_mul, show 2 ^ 8 = 256 from rfl]

/-- The operand bytes are the bytes of the operand, most significant first (R83). -/
theorem beBytes_toNat {w : Nat} (v : BitVec w) (n : Nat) :
    beBytes n v.toNat = (List.range n).reverse.map fun k => v.extractLsb' (8 * k) 8 := by
  induction n with
  | zero => rfl
  | succ n ih =>
    rw [beBytes, ofNat_toNat_div_eq_extractLsb', ih, List.range_succ, List.reverse_append]
    rfl

/-- As many bytes as an operand has are the bytes of the operand they give (R83). -/
theorem beBytes_ofNat_fromBE {w : Nat} (hw : 8 * (w / 8) = w) {bytes : List Byte} (h : bytes.length = w / 8) :
    beBytes (w / 8) (BitVec.ofNat w (fromBE bytes)).toNat = bytes := by
  have hlt : fromBE bytes < 2 ^ w := by
    have := fromBE_lt bytes
    rwa [h, show 256 = 2 ^ 8 from rfl, ← pow_mul, hw] at this
  rw [BitVec.toNat_ofNat, Nat.mod_eq_of_lt hlt, ← h, beBytes_fromBE]

/-! ### The legal opcode bytes (R84) -/

/-- One operation for each row of the opcode map (R84). -/
def operationTable : List Instr :=
  [.nop, .coreRst, .ctlWr 0#8,
    .crcClr, .crcByte 0#8, .crcFlush, .crcVfy 0#16,
    .pkClr, .pkBegin, .pkByte 0#8, .pkFlush, .pkEnd,
    .upClr, .upChar 0#8, .upEnd,
    .rdClr, .rdByte 0#8, .rdEnd,
    .reClr, .reByte 0#8, .reEnd,
    .faClr, .faNclr, .faNpush 0#8, .faType 0#32, .faAuth 0#32, .faFlags 0#16, .faDlen 0#64, .faRlen 0#64, .faHdr,
    .faPush 0#8,
    .fpClr, .fpParse, .vfRun]

/-- The 34 legal opcode bytes (R84). -/
def legalOpcodes : List Byte := operationTable.map Instr.opcode

/-- A byte is a legal opcode when it is the opcode byte of an operation. -/
theorem mem_legalOpcodes_iff {opcode : Byte} : opcode ∈ legalOpcodes ↔ ∃ i : Instr, i.opcode = opcode where
  mp := fun h => by
    obtain ⟨i, -, hi⟩ := List.mem_map.mp h
    exact ⟨i, hi⟩
  mpr := by
    rintro ⟨i, rfl⟩
    cases i <;> simp [Instr.opcode, legalOpcodes, operationTable]

/-- The decoder takes every byte that is not a legal opcode as reserved, whatever follows it (R85). -/
theorem decode_of_not_mem_legalOpcodes {opcode : Byte} (h : opcode ∉ legalOpcodes) (bytes : List Byte) :
    decode (opcode :: bytes) = .reserved opcode bytes := by
  have hne : ∀ n ∈ legalOpcodes.map BitVec.toNat, opcode.toNat ≠ n := by
    rintro n hn rfl
    obtain ⟨b, hb, heq⟩ := List.mem_map.mp hn
    exact h (BitVec.eq_of_toNat_eq heq ▸ hb)
  rw [decode]
  unfold decodeOpcode
  split
  case h_35 => rfl
  all_goals exact absurd ‹opcode.toNat = _› (hne _ (by decide))

/-! ### What the decoder can answer -/

/-- The three answers of the decoder at an opcode byte followed by `bytes` (R80), each with what it says of encodings. -/
inductive Reading (opcode : Byte) (bytes : List Byte) : Decoded → Prop where
  /-- (a) The bytes begin with an encoding. -/
  | op (i : Instr) {rest : List Byte} (h : opcode :: bytes = encode i ++ rest) : Reading opcode bytes (.op i rest)
  /-- (b) No operation has the opcode byte. -/
  | reserved (h : ∀ i : Instr, i.opcode ≠ opcode) : Reading opcode bytes (.reserved opcode bytes)
  /-- (c) The bytes are a proper initial part of an encoding. -/
  | incomplete (i : Instr) {tail : List Byte} (htail : tail ≠ []) (h : encode i = opcode :: bytes ++ tail) :
      Reading opcode bytes .incomplete

/-- The answer at the opcode byte of an operation with an operand of `w` bits: too few operand bytes are completed to an
encoding by zero bytes. -/
theorem withOperand_reading {w : Nat} (hw : 8 * (w / 8) = w) {opcode : Byte} {op : BitVec w → Instr}
    (hop : ∀ v, encode (op v) = opcode :: beBytes (w / 8) v.toNat) (bytes : List Byte) :
    Reading opcode bytes (withOperand w op bytes) := by
  unfold withOperand
  split
  · next hshort =>
    have hlen : (bytes ++ List.replicate (w / 8 - bytes.length) 0#8).length = w / 8 := by simp; omega
    have hmissing : List.replicate (w / 8 - bytes.length) 0#8 ≠ [] := by simp; omega
    exact .incomplete (op (BitVec.ofNat w (fromBE (bytes ++ List.replicate (w / 8 - bytes.length) 0#8)))) hmissing
      (by rw [hop, beBytes_ofNat_fromBE hw hlen, List.cons_append])
  · next henough =>
    have hlen : (bytes.take (w / 8)).length = w / 8 := by simp; omega
    exact .op _ (by rw [hop, beBytes_ofNat_fromBE hw hlen, List.cons_append, List.take_append_drop])

/-- The answer at the opcode byte of an operation (R81, R84). -/
theorem decode_opcode_reading (i : Instr) (bytes : List Byte) :
    Reading i.opcode bytes (decode (i.opcode :: bytes)) := by
  cases i with
  | ctlWr | crcByte | pkByte | upChar | rdByte | reByte | faNpush | faPush =>
    exact withOperand_reading (w := 8) rfl (fun _ => rfl) bytes
  | crcVfy | faFlags => exact withOperand_reading (w := 16) rfl (fun _ => rfl) bytes
  | faType | faAuth => exact withOperand_reading (w := 32) rfl (fun _ => rfl) bytes
  | faDlen | faRlen => exact withOperand_reading (w := 64) rfl (fun _ => rfl) bytes
  | nop | coreRst | crcClr | crcFlush | pkClr | pkBegin | pkFlush | pkEnd | upClr | upEnd | rdClr | rdEnd | reClr | reEnd
  | faClr | faNclr | faHdr | fpClr | fpParse | vfRun => exact .op _ rfl

/-- Everything the decoder can answer at an opcode byte (R80). -/
theorem decode_reading (opcode : Byte) (bytes : List Byte) : Reading opcode bytes (decode (opcode :: bytes)) := by
  by_cases h : opcode ∈ legalOpcodes
  · obtain ⟨i, rfl⟩ := mem_legalOpcodes_iff.mp h
    exact decode_opcode_reading i bytes
  · rw [decode_of_not_mem_legalOpcodes h]
    exact .reserved fun i hi => h (mem_legalOpcodes_iff.mpr ⟨i, hi⟩)

/-- Bytes that decode to an operation begin with its encoding (R80). -/
theorem eq_encode_append_of_decode {bytes : List Byte} {i : Instr} {rest : List Byte}
    (h : decode bytes = .op i rest) : bytes = encode i ++ rest := by
  cases bytes with
  | nil => cases h
  | cons opcode bytes =>
    have hreading := decode_reading opcode bytes
    rw [h] at hreading
    cases hreading with
    | op _ heq => exact heq

/-- The decoder answers `reserved` at the bytes that are no operation's opcode, and takes one byte (R85). -/
theorem decode_eq_reserved_iff {bytes : List Byte} {opcode : Byte} {rest : List Byte} :
    decode bytes = .reserved opcode rest ↔ bytes = opcode :: rest ∧ opcode ∉ legalOpcodes where
  mp := fun h => by
    cases bytes with
    | nil => cases h
    | cons first bytes =>
      have hreading := decode_reading first bytes
      rw [h] at hreading
      cases hreading with
      | reserved hno => exact ⟨rfl, fun hmem => (mem_legalOpcodes_iff.mp hmem).elim hno⟩
  mpr := by
    rintro ⟨rfl, h⟩
    exact decode_of_not_mem_legalOpcodes h rest

/-- What decodes to an operation is no proper initial part of an encoding (R80: the opcode byte fixes the length). -/
theorem decode_ne_op_of_encode_eq_append {bytes tail : List Byte} {i : Instr} (h : encode i = bytes ++ tail)
    (htail : tail ≠ []) (j : Instr) (rest : List Byte) : decode bytes ≠ .op j rest := by
  intro hj
  have hcode : encode i ++ [] = encode j ++ (rest ++ tail) := by
    rw [List.append_nil, h, eq_encode_append_of_decode hj, List.append_assoc]
  have hdecoded : Decoded.op i [] = .op j (rest ++ tail) := by
    rw [← decode_encode_append i, hcode, decode_encode_append]
  injection hdecoded with _ hrest
  exact htail (List.append_eq_nil_iff.mp hrest.symm).2

/-- The decoder answers `incomplete` on the proper initial parts of encodings and nowhere else (R80 c). -/
theorem decode_eq_incomplete_iff (bytes : List Byte) :
    decode bytes = .incomplete ↔ ∃ i tail, tail ≠ [] ∧ encode i = bytes ++ tail := by
  cases bytes with
  | nil => exact iff_of_true rfl ⟨.nop, encode .nop, by decide, rfl⟩
  | cons opcode bytes =>
    constructor
    · intro h
      have hreading := decode_reading opcode bytes
      rw [h] at hreading
      cases hreading with
      | incomplete i htail heq => exact ⟨i, _, htail, heq⟩
    · rintro ⟨i, tail, htail, hcode⟩
      have hop := decode_ne_op_of_encode_eq_append hcode htail
      have hopcode : i.opcode = opcode := (List.cons.inj hcode).1
      cases hd : decode (opcode :: bytes) with
      | op j rest => exact absurd hd (hop j rest)
      | reserved b rest =>
        obtain ⟨heq, hb⟩ := decode_eq_reserved_iff.mp hd
        obtain rfl : opcode = b := (List.cons.inj heq).1
        exact absurd (mem_legalOpcodes_iff.mpr ⟨i, hopcode⟩) hb
      | incomplete => rfl

/-- The bytes that are no legal opcode are the ranges that rule R85 lists. -/
theorem not_mem_legalOpcodes_iff (opcode : Byte) :
    opcode ∉ legalOpcodes ↔
      (0x03 ≤ opcode.toNat ∧ opcode.toNat ≤ 0x0F) ∨ (0x14 ≤ opcode.toNat ∧ opcode.toNat ≤ 0x1F) ∨
      (0x25 ≤ opcode.toNat ∧ opcode.toNat ≤ 0x2F) ∨ (0x33 ≤ opcode.toNat ∧ opcode.toNat ≤ 0x3F) ∨
      (0x43 ≤ opcode.toNat ∧ opcode.toNat ≤ 0x4F) ∨ (0x53 ≤ opcode.toNat ∧ opcode.toNat ≤ 0x5F) ∨
      (0x6A ≤ opcode.toNat ∧ opcode.toNat ≤ 0x6F) ∨ (0x73 ≤ opcode.toNat ∧ opcode.toNat ≤ 0x7F) ∨
      0x80 ≤ opcode.toNat := by
  revert opcode
  decide

/-- A byte alone is reserved when it is no legal opcode. -/
theorem decode_singleton_beq_reserved (opcode : Byte) :
    (decode [opcode] == .reserved opcode []) = !legalOpcodes.contains opcode := by
  rw [Bool.eq_iff_iff]
  simp [decode_eq_reserved_iff]

namespace Machine

/-! ### The step on a reserved opcode and on an incomplete command, and the faulted core -/

/-- An operation other than `CORE.RST` changes nothing while `ST.FAULT = 1` (R251). -/
theorem exec_faulted {s : State} (hf : s.st.fault = true) {i : Instr} (hi : i ≠ .coreRst) : exec i s = .next s := by
  obtain ⟨body, hbody, -⟩ := exec_issues hi s
  rw [hbody, issue_faulted hf]

/-- A reserved opcode at the front of the port (R85). -/
theorem step_of_not_mem_legalOpcodes {s : State} {opcode : Byte} {rest : List Byte} (hport : s.port = opcode :: rest)
    (h : opcode ∉ legalOpcodes) : step s = execReserved (s.setPort rest) := by
  rw [step, fetch, hport, decode_of_not_mem_legalOpcodes h]

/-- No complete command at the front of the port (R80 c; log 2). -/
theorem step_of_incomplete {s : State} (h : decode s.port = .incomplete) : step s = .next s := by
  rw [step, fetch, h]

/-! ### Operations that write registers, issued without a fault -/

/-- A configuration operation in phase `CFG` writes its register (R194 to R200). -/
theorem faConfigure_of_cfg {s : State} (h : s.fa.ph = .cfg) (update : FaRegs → FaRegs) :
    faConfigure s update = s.setFa (update s.fa) := by
  rw [faConfigure, decide_eq_true h, whenLegal_true]

theorem issue_faConfigure {s : State} (hf : s.st.fault = false) (h : s.fa.ph = .cfg) (update : FaRegs → FaRegs) :
    (issue s fun s => faConfigure s update) = .next (s.setFa (update s.fa)) := by
  rw [issue_running hf, faConfigure_of_cfg h]

section
variable {s : State} (hf : s.st.fault = false)
include hf

theorem exec_ctlWr (imm : BitVec 8) : exec (.ctlWr imm) s = .next (s.setCtl (ctlOfOperand imm)) := by
  rw [exec, execCtlWr, issue_running hf]

theorem exec_crcClr : exec .crcClr s = .next (s.setCrc 0x0000#16) := by
  rw [exec, execCrcClr, issue_running hf]

theorem exec_pkClr : exec .pkClr s = .next ((s.setPk PkRegs.reset).setTxt []) := by
  rw [exec, execPkClr, issue_running hf]

theorem exec_upClr : exec .upClr s = .next ((s.setUp UpRegs.reset).setPkd []) := by
  rw [exec, execUpClr, issue_running hf]

theorem exec_rdClr : exec .rdClr s = .next ((s.setRd RdRegs.reset).setRaw []) := by
  rw [exec, execRdClr, issue_running hf]

theorem exec_reClr : exec .reClr s = .next ((s.setRe ReRegs.reset).setRle []) := by
  rw [exec, execReClr, issue_running hf]

theorem exec_faClr : exec .faClr s = .next ((s.setFa FaRegs.reset).setFrm []) := by
  rw [exec, execFaClr, issue_running hf]

theorem exec_fpClr (hfpv : s.params.hasFpv = true) : exec .fpClr s = .next (s.setV ViewRegs.reset) := by
  rw [exec, execFpClr, issue_running hf, hfpv, whenLegal_true]

/-- The seven clears and `CTL.WR 0x00` reset everything but `ST` (R271), the parameters and the port (log 3, log 1). -/
theorem execAll_clears (hfpv : s.params.hasFpv = true) :
    execAll [.crcClr, .pkClr, .upClr, .rdClr, .reClr, .faClr, .fpClr, .ctlWr 0x00#8] s =
      .next ((coreReset s).setSt s.st) := by
  have hctl : ctlOfOperand 0x00#8 = CtlReg.reset := by decide
  simp [execAll, exec_crcClr, exec_pkClr, exec_upClr, exec_rdClr, exec_reClr, exec_faClr, exec_fpClr, exec_ctlWr, hf,
    hfpv, hctl, State.setCrc, State.setPk, State.setTxt, State.setUp, State.setPkd, State.setRd, State.setRaw, State.setRe,
    State.setRle, State.setFa, State.setFrm, State.setV, State.setCtl, State.setSt, coreReset, State.reset]

end

/-! ### The obligations -/

/-- Settles O1. -/
theorem decodeInvertsEncode : Obligations.DecodeInvertsEncode := by
  unfold Obligations.DecodeInvertsEncode
  exact decode_encode_append

/-- Settles O2: the answer (a) of `Reading`. -/
theorem encodeInvertsDecode : Obligations.EncodeInvertsDecode := by
  unfold Obligations.EncodeInvertsDecode
  exact fun _ _ _ => eq_encode_append_of_decode

/-- Settles O3: the reserved bytes are those outside the table of legal opcodes. -/
theorem reservedOpcodesAreExactlyTheListed : Obligations.ReservedOpcodesAreExactlyTheListed := by
  unfold Obligations.ReservedOpcodesAreExactlyTheListed
  refine ⟨fun opcode rest => ?_, fun bytes opcode rest h => (decode_eq_reserved_iff.mp h).1, ?_⟩
  · rw [← not_mem_legalOpcodes_iff, decode_eq_reserved_iff, and_iff_right rfl]
  · simp only [decode_singleton_beq_reserved]
    decide +kernel

/-- Settles O4: the answer (c) of `Reading`, and that the bytes of one encoding decode to no other. -/
theorem incompleteMeansAProperInitialPart : Obligations.IncompleteMeansAProperInitialPart := by
  unfold Obligations.IncompleteMeansAProperInitialPart
  exact decode_eq_incomplete_iff

/-- Settles O5: each command is the encoding of its operation, byte by byte, with nothing after it. -/
theorem sampleCommandsDecode : Obligations.SampleCommandsDecode := by
  unfold Obligations.SampleCommandsDecode
  exact ⟨decode_encode_append (.ctlWr 0xFF#8) [], decode_encode_append (.crcVfy 0x31C3#16) [],
    decode_encode_append (.pkByte 0x4D#8) [], decode_encode_append (.upChar 0x24#8) [],
    decode_encode_append .rdEnd [], decode_encode_append (.reByte 0x41#8) [],
    decode_encode_append (.faType 0x54455854#32) [], decode_encode_append (.faDlen 5#64) [],
    decode_encode_append .vfRun []⟩

/-- Settles O7: a reserved opcode is issued as a fault entry. -/
theorem reservedOpcodeRaisesIllegalOp : Obligations.ReservedOpcodeRaisesIllegalOp := by
  unfold Obligations.ReservedOpcodeRaisesIllegalOp
  intro s opcode rest hf hport hno
  have hreserved : opcode ∉ legalOpcodes := fun h => (mem_legalOpcodes_iff.mp h).elim hno
  rw [step_of_not_mem_legalOpcodes hport hreserved, execReserved]
  exact issue_running (s := s.setPort rest) hf (raise .illegalOp)

/-- Settles O8. -/
theorem stepWithoutACommandIdles : Obligations.StepWithoutACommandIdles := by
  unfold Obligations.StepWithoutACommandIdles
  exact fun _ => step_of_incomplete

/-- Settles O24: each clear is the write of reset values to its own registers and stream. -/
theorem unitClearsResetTheirUnitOnly : Obligations.UnitClearsResetTheirUnitOnly := by
  unfold Obligations.UnitClearsResetTheirUnitOnly
  refine ⟨⟨rfl, rfl, rfl, rfl, rfl, rfl, rfl, rfl⟩, fun s hf => ?_, fun s hf i hi => ?_⟩
  · exact ⟨exec_crcClr hf, exec_pkClr hf, exec_upClr hf, exec_rdClr hf, exec_reClr hf, exec_faClr hf, exec_fpClr hf,
      fun hph => issue_faConfigure hf hph _, execAll_clears hf⟩
  · exact exec_faulted hf (by rintro rfl; simp at hi)

/-- Settles O48: the operand bytes are `beBytes_toNat`, the writes `issue_faConfigure`. -/
theorem faConfigurationWritesItsRegister : Obligations.FaConfigurationWritesItsRegister := by
  unfold Obligations.FaConfigurationWritesItsRegister
  refine ⟨fun imm => congrArg (0x63#8 :: ·) (beBytes_toNat imm 4),
    fun imm => congrArg (0x64#8 :: ·) (beBytes_toNat imm 4),
    fun imm => congrArg (0x65#8 :: ·) (beBytes_toNat imm 2),
    fun imm => congrArg (0x66#8 :: ·) (beBytes_toNat imm 8),
    fun imm => congrArg (0x67#8 :: ·) (beBytes_toNat imm 8), fun s hf hph => ?_⟩
  exact ⟨fun _ => issue_faConfigure hf hph _, fun _ => issue_faConfigure hf hph _, fun _ => issue_faConfigure hf hph _,
    fun _ => issue_faConfigure hf hph _, fun _ => issue_faConfigure hf hph _⟩

end Machine
end Sys2Proof

/-! PROOFS. The system operations `NOP` and `CTL.WR` (rules R110 and R112). -/

namespace Sys2Proof

/-- An operand of one byte is encoded as itself (R83). -/
theorem beBytes_one_toNat (imm : BitVec 8) : beBytes 1 imm.toNat = [imm] := by
  simpa using beBytes_toNat imm 1

namespace Machine

/-- `NOP` without a fault; with one, `exec_faulted` says the same (R110). -/
theorem exec_nop {s : State} (hf : s.st.fault = false) : exec .nop s = .next s := by
  rw [exec, execNop, issue_running hf, id]

/-- A byte that has the three low bits of `imm`, and 0 above them, is `imm` under the mask of `CTL` (R22). -/
theorem eq_and_mask_of_low_bits {x imm : BitVec 8} (h0 : x.getLsbD 0 = imm.getLsbD 0)
    (h1 : x.getLsbD 1 = imm.getLsbD 1) (h2 : x.getLsbD 2 = imm.getLsbD 2) (hhigh : x.extractLsb' 3 5 = 0#5) :
    x = imm &&& 0x07#8 := by
  have hzero : ∀ k < 5, x.getLsbD (3 + k) = false := fun k hk => by
    simpa [hk] using congrArg (BitVec.getLsbD · k) hhigh
  apply BitVec.eq_of_getLsbD_eq
  intro i hi
  rw [BitVec.getLsbD_and]
  match i, hi with
  | 0, _ => simpa using h0
  | 1, _ => simpa using h1
  | 2, _ => simpa using h2
  | k + 3, hi =>
    have hmask : ∀ k < 5, (0x07#8).getLsbD (k + 3) = false := by decide
    rw [hmask k (by omega), Bool.and_false, Nat.add_comm, hzero k (by omega)]

/-- `CTL` reads, after `CTL.WR`, as bits 2:0 of the operand: the reserved bits 7:3 are not stored (R22, R112). -/
theorem ctlByte_setCtl_ctlOfOperand (s : State) (imm : BitVec 8) :
    (s.setCtl (ctlOfOperand imm)).ctlByte = imm &&& 0x07#8 := by
  obtain ⟨h0, h1, h2, hhigh⟩ := ctlByte_fields (s.setCtl (ctlOfOperand imm))
  exact eq_and_mask_of_low_bits h0 h1 h2 hhigh

/-- Settles O22: faulted, `NOP` is ignored like every other operation; otherwise its effect is the identity. -/
theorem nopChangesNothing : Obligations.NopChangesNothing := by
  unfold Obligations.NopChangesNothing
  refine ⟨rfl, fun s => ?_⟩
  cases hf : s.st.fault with
  | true => exact exec_faulted hf (by decide)
  | false => exact exec_nop hf

/-- Settles O23: the operand byte is `beBytes_one_toNat`, the next state `exec_ctlWr`, and what `CTL` then reads
`ctlByte_setCtl_ctlOfOperand`. -/
theorem ctlWrWritesTheLinkBits : Obligations.CtlWrWritesTheLinkBits := by
  unfold Obligations.CtlWrWritesTheLinkBits
  intro imm s hf
  exact ⟨congrArg (0x02#8 :: ·) (beBytes_one_toNat imm), s.setCtl (ctlOfOperand imm), exec_ctlWr hf imm,
    ctlByte_setCtl_ctlOfOperand s imm, rfl⟩

end Machine
end Sys2Proof

/-! PROOFS. The CRC engine (rules R121 to R131 of `41_crc.md`). Everything rests on one reading of the bit step
(`crcBit_eq`): shift the bit in, and add `CRC_POLY` when a 1 was shifted out. From it come three views of the fold of bit
steps: it is linear over XOR (`crcBit_xor`), it is plain shifting until a 1 reaches bit 15 (`toNat_foldl_crcBit`), and it
is arithmetic modulo `G(x)` (`generatorPolynomial_dvd_crcBit`). -/

namespace Sys2Proof.Machine

/-! ### The bit step and its folds -/

/-- R121 with the register and the entering bit as one shift. -/
theorem crcBit_eq (r : CrcWord) (b : Bool) :
    crcBit r b = r.shiftConcat b ^^^ if r.getLsbD 15 then Config.crcPoly else 0#16 := by
  have hshift : (r <<< 1) ||| (BitVec.ofBool b).setWidth 16 = r.shiftConcat b := by
    apply BitVec.eq_of_getLsbD_eq
    intro i hi
    cases i <;> simp [hi]
  rw [crcBit, hshift]
  split
  · rfl
  · rw [BitVec.xor_zero]

/-- The bytes of a message go in as its bits, bit 7 of each byte first (R122). -/
theorem foldl_crcByte (m : List Byte) (r : CrcWord) : m.foldl crcByte r = (m.flatMap bitsMSB).foldl crcBit r :=
  List.foldl_flatMap.symm

/-- Flushing after a message is shifting in two more zero bytes (R123). -/
theorem crcFlush_foldl_crcByte (m : List Byte) (r : CrcWord) :
    crcFlush (m.foldl crcByte r) = (m ++ [0x00#8, 0x00#8]).foldl crcByte r := by
  rw [List.foldl_append]
  rfl

/-- The stored CRC as a `crc16` (R124). -/
theorem storedCrc_eq_crc16 (m : List Byte) : storedCrc m = crc16 (m ++ [0x00#8, 0x00#8]) :=
  crcFlush_foldl_crcByte m _

theorem crcByte_zero_zero : crcByte 0x0000#16 0x00#8 = 0x0000#16 := by decide

/-- Zero bytes leave the register at 0 (R131). -/
theorem crc16_replicate_zero (k : Nat) : crc16 (List.replicate k 0x00#8) = 0x0000#16 := by
  induction k with
  | zero => rfl
  | succ k ih => rw [crc16, List.replicate_succ, List.foldl_cons, crcByte_zero_zero]; exact ih

/-- `verifyCrc` accepts the stored CRC and no other value (R129). -/
theorem verifyCrc_iff {m : List Byte} {e : CrcWord} : verifyCrc m e = true ↔ e = storedCrc m := by
  rw [verifyCrc, beq_iff_eq, eq_comm]

/-! ### Linearity over XOR (R130 a) -/

/-- A step that carries an operation on inputs to an operation on states does so along two inputs of equal length. -/
theorem foldl_zipWith_of_step {σ β : Type} {f : σ → β → σ} {op : σ → σ → σ} {g : β → β → β}
    (hstep : ∀ r s a b, f (op r s) (g a b) = op (f r a) (f s b)) {as bs : List β} (h : as.length = bs.length) (r s : σ) :
    (List.zipWith g as bs).foldl f (op r s) = op (as.foldl f r) (bs.foldl f s) := by
  induction as generalizing bs r s with
  | nil => cases bs with
    | nil => rfl
    | cons b bs => simp at h
  | cons a as ih => cases bs with
    | nil => simp at h
    | cons b bs =>
      rw [List.zipWith_cons_cons, List.foldl_cons, hstep]
      exact ih (by simpa using h) _ _

theorem crcBit_xor (r s : CrcWord) (a b : Bool) : crcBit (r ^^^ s) (a ^^ b) = crcBit r a ^^^ crcBit s b := by
  have hshift : (r ^^^ s).shiftConcat (a ^^ b) = r.shiftConcat a ^^^ s.shiftConcat b := by
    apply BitVec.eq_of_getLsbD_eq
    intro i hi
    cases i <;> simp [hi]
  have hpoly : (if (r ^^^ s).getLsbD 15 then Config.crcPoly else 0#16) =
      (if r.getLsbD 15 then Config.crcPoly else 0#16) ^^^ if s.getLsbD 15 then Config.crcPoly else 0#16 := by
    rw [BitVec.getLsbD_xor]
    cases r.getLsbD 15 <;> cases s.getLsbD 15 <;> rfl
  rw [crcBit_eq, crcBit_eq, crcBit_eq, hshift, hpoly]
  ac_rfl

theorem bitsMSB_xor (a b : Byte) : bitsMSB (a ^^^ b) = List.zipWith (· ^^ ·) (bitsMSB a) (bitsMSB b) := by
  simp [bitsMSB]

theorem crcByte_xor (r s : CrcWord) (a b : Byte) : crcByte (r ^^^ s) (a ^^^ b) = crcByte r a ^^^ crcByte s b := by
  rw [crcByte, bitsMSB_xor]
  exact foldl_zipWith_of_step crcBit_xor (as := bitsMSB a) (bs := bitsMSB b) rfl r s

/-- The register after a message, linear in the register before it and the message together. -/
theorem foldl_crcByte_xor {a b : List Byte} (h : a.length = b.length) (r s : CrcWord) :
    (List.zipWith (· ^^^ ·) a b).foldl crcByte (r ^^^ s) = a.foldl crcByte r ^^^ b.foldl crcByte s :=
  foldl_zipWith_of_step crcByte_xor h r s

/-! ### Before a 1 reaches bit 15 (R131) -/

/-- While the register and the bits to come fit in 16 bits, the polynomial is never added: the bits are appended. -/
theorem toNat_foldl_crcBit {bits : List Bool} {k : Nat} {r : CrcWord} (hr : r.toNat < 2 ^ k)
    (hk : k + bits.length ≤ 16) : (bits.foldl crcBit r).toNat = bits.foldl (fun n b => n * 2 + b.toNat) r.toNat := by
  induction bits generalizing k r with
  | nil => rfl
  | cons b bits ih =>
    rw [List.length_cons] at hk
    have hk16 : k < 16 := by omega
    have hmsb : r.getLsbD 15 = false := by
      rw [← BitVec.testBit_toNat]
      exact Nat.testBit_lt_two_pow (hr.trans_le (Nat.pow_le_pow_right (by omega) (by omega)))
    have hbit : crcBit r b = r.shiftConcat b := by
      rw [crcBit_eq, hmsb, if_neg Bool.false_ne_true, BitVec.xor_zero]
    rw [List.foldl_cons, List.foldl_cons, hbit, ← BitVec.toNat_shiftConcat_eq_of_lt hk16 hr]
    exact ih (BitVec.toNat_shiftConcat_lt_of_lt hk16 hr) (by omega)

/-- The bits of a byte, appended to a number (R66). -/
theorem foldl_bitsMSB (v : Byte) (n : Nat) :
    (bitsMSB v).foldl (fun n b => n * 2 + b.toNat) n = n * 256 + v.toNat := by
  have hv := v.isLt
  simp only [bitsMSB, List.map_cons, List.map_nil, List.foldl_cons, List.foldl_nil, ← BitVec.testBit_toNat,
    Nat.toNat_testBit]
  omega

theorem toNat_crcByte {r : CrcWord} (hr : r.toNat < 256) (v : Byte) :
    (crcByte r v).toNat = r.toNat * 256 + v.toNat := by
  rw [crcByte, toNat_foldl_crcBit (k := 8) hr (by simp [bitsMSB]), foldl_bitsMSB]

/-- A message of at most two bytes is its own `crc16` (R131). -/
theorem toNat_crc16_of_length_le {m : List Byte} (h : m.length ≤ 2) : (crc16 m).toNat = fromBE m := by
  have hone (a : Byte) : (crcByte 0x0000#16 a).toNat = a.toNat := by simp [toNat_crcByte]
  match m, h with
  | [], _ => rfl
  | [a], _ => simpa [crc16, fromBE] using hone a
  | [a, b], _ =>
    have htwo := toNat_crcByte (r := crcByte 0x0000#16 a) (by rw [hone]; exact a.isLt) b
    simpa [crc16, fromBE, hone] using htwo

/-- The two bytes of a CRC value have that value as their `crc16`. -/
theorem crc16_beBytes_toNat (r : CrcWord) : crc16 (beBytes 2 r.toNat) = r := by
  apply BitVec.eq_of_toNat_eq
  rw [toNat_crc16_of_length_le (beBytes_length 2 _).le, fromBE_beBytes]
  exact Nat.mod_eq_of_lt r.isLt

/-- Shifting two bytes into a register flushes it and adds their `crc16`: linearity, the bytes as zero bytes plus
themselves and the register as itself plus 0. -/
theorem foldl_crcByte_of_length_eq_two {m : List Byte} (h : m.length = 2) (r : CrcWord) :
    m.foldl crcByte r = crcFlush r ^^^ crc16 m := by
  have hlinear := foldl_crcByte_xor (a := [0x00#8, 0x00#8]) (b := m) h.symm r 0x0000#16
  match m, h with
  | [a, b], _ => simpa [crcFlush, crc16] using hlinear

/-- A message and then its stored CRC leave 0 (R130 b). -/
theorem crc16_append_beBytes_crcFlush (m : List Byte) :
    crc16 (m ++ beBytes 2 (crcFlush (crc16 m)).toNat) = 0x0000#16 := by
  calc crc16 (m ++ beBytes 2 (crcFlush (crc16 m)).toNat)
      = (beBytes 2 (crcFlush (crc16 m)).toNat).foldl crcByte (crc16 m) := List.foldl_append
    _ = crcFlush (crc16 m) ^^^ crc16 (beBytes 2 (crcFlush (crc16 m)).toNat) :=
        foldl_crcByte_of_length_eq_two (beBytes_length 2 _) _
    _ = 0x0000#16 := by rw [crc16_beBytes_toNat, BitVec.xor_self]

/-! ### Bit strings as polynomials over GF(2) (R130) -/

section
open Polynomial

@[simp] theorem bitPolynomial_nil : bitPolynomial [] = 0 := rfl

theorem bitPolynomial_concat (bits : List Bool) (b : Bool) :
    bitPolynomial (bits ++ [b]) = bitPolynomial bits * X + if b then 1 else 0 := by
  rw [bitPolynomial, List.foldl_append]
  rfl

theorem bitPolynomial_append (xs ys : List Bool) :
    bitPolynomial (xs ++ ys) = bitPolynomial xs * X ^ ys.length + bitPolynomial ys := by
  induction ys using List.reverseRecOn with
  | nil => simp
  | append_singleton ys b ih =>
    rw [← List.append_assoc, bitPolynomial_concat, bitPolynomial_concat, ih, List.length_append, List.length_singleton]
    ring

/-- The first bit is the highest coefficient. -/
theorem bitPolynomial_cons (b : Bool) (bits : List Bool) :
    bitPolynomial (b :: bits) = (if b then X ^ bits.length else 0) + bitPolynomial bits := by
  rw [← List.singleton_append, bitPolynomial_append]
  cases b <;> simp [bitPolynomial]

theorem bitPolynomial_replicate_false (n : Nat) : bitPolynomial (List.replicate n false) = 0 := by
  induction n with
  | zero => rfl
  | succ n ih => simp [List.replicate_succ, bitPolynomial_cons, ih]

theorem degree_bitPolynomial_lt (bits : List Bool) : (bitPolynomial bits).degree < bits.length := by
  induction bits with
  | nil => simp
  | cons b bits ih =>
    have hlt : (bits.length : WithBot ℕ) < (bits.length + 1 : ℕ) := by exact_mod_cast bits.length.lt_succ_self
    have hhead : (if b then X ^ bits.length else 0 : (ZMod 2)[X]).degree < (bits.length + 1 : ℕ) := by
      cases b with
      | false => simp
      | true => simpa using hlt
    rw [bitPolynomial_cons, List.length_cons]
    exact (degree_add_le _ _).trans_lt (max_lt hhead (ih.trans hlt))

/-- XOR of bit strings of equal length is the sum of their polynomials: coefficients in GF(2). -/
theorem bitPolynomial_xor {xs ys : List Bool} (h : xs.length = ys.length) :
    bitPolynomial (List.zipWith (· ^^ ·) xs ys) = bitPolynomial xs + bitPolynomial ys := by
  have hbit (p q : (ZMod 2)[X]) (a b : Bool) :
      (p + q) * X + (if a ^^ b then 1 else 0) = p * X + (if a then 1 else 0) + (q * X + if b then 1 else 0) := by
    have hcoeff : (if a ^^ b then 1 else 0 : (ZMod 2)[X]) = (if a then 1 else 0) + if b then 1 else 0 := by
      cases a <;> cases b <;> simp [CharTwo.add_self_eq_zero]
    rw [hcoeff]
    ring
  have hfold := foldl_zipWith_of_step (f := fun (p : (ZMod 2)[X]) (b : Bool) => p * X + if b then 1 else 0)
    (op := (· + ·)) (g := (· ^^ ·)) hbit h 0 0
  rwa [add_zero] at hfold

/-! ### The register as a polynomial -/

theorem crcBits_eq (r : CrcWord) : crcBits r = (List.range 16).reverse.map r.getLsbD := by
  simp [crcBits, beBytes_toNat, bitsMSB, List.range_succ]

theorem crcBits_length (r : CrcWord) : (crcBits r).length = 16 := by simp [crcBits_eq]

theorem crcBits_xor (r s : CrcWord) : crcBits (r ^^^ s) = List.zipWith (· ^^ ·) (crcBits r) (crcBits s) := by
  simp [crcBits_eq, List.range_succ]

/-- A shift drops bit 15 from the front and appends the entering bit. -/
theorem cons_crcBits_shiftConcat (r : CrcWord) (b : Bool) :
    r.getLsbD 15 :: crcBits (r.shiftConcat b) = crcBits r ++ [b] := by
  simp [crcBits_eq, List.range_succ]

theorem bitPolynomial_crcBits_xor (r s : CrcWord) :
    bitPolynomial (crcBits (r ^^^ s)) = bitPolynomial (crcBits r) + bitPolynomial (crcBits s) := by
  rw [crcBits_xor, bitPolynomial_xor (by rw [crcBits_length, crcBits_length])]

theorem bitPolynomial_crcBits_zero : bitPolynomial (crcBits 0x0000#16) = 0 :=
  bitPolynomial_replicate_false 16

/-- `CRC_POLY` is `G(x)` without its highest term (R7, R130). -/
theorem bitPolynomial_crcBits_crcPoly :
    X ^ 16 + bitPolynomial (crcBits Config.crcPoly) = generatorPolynomial := by
  have hbits : crcBits Config.crcPoly = [false, false, false, true, false, false, false, false,
      false, false, true, false, false, false, false, true] := by decide
  simp [hbits, bitPolynomial_cons, generatorPolynomial]
  ring

theorem generatorPolynomial_monic : generatorPolynomial.Monic := by
  unfold generatorPolynomial
  monicity!

theorem degree_generatorPolynomial : generatorPolynomial.degree = 16 := by
  unfold generatorPolynomial
  compute_degree!

/-- The bit step multiplies the register by `x` and adds the entering bit, modulo `G(x)` (R121, R130): a 1 shifted out of
bit 15 is the term `x^16`, and adding `CRC_POLY` in its place adds `G(x)`. -/
theorem generatorPolynomial_dvd_crcBit (r : CrcWord) (b : Bool) :
    generatorPolynomial ∣ bitPolynomial (crcBits (crcBit r b)) -
      (bitPolynomial (crcBits r) * X + if b then 1 else 0) := by
  have hshift : (if r.getLsbD 15 then X ^ 16 else 0) + bitPolynomial (crcBits (r.shiftConcat b)) =
      bitPolynomial (crcBits r) * X + if b then 1 else 0 := by
    rw [← bitPolynomial_concat, ← cons_crcBits_shiftConcat, bitPolynomial_cons, crcBits_length]
  rw [← hshift, crcBit_eq, bitPolynomial_crcBits_xor]
  cases r.getLsbD 15 with
  | false => simp [bitPolynomial_crcBits_zero]
  | true =>
    have hsum : bitPolynomial (crcBits (r.shiftConcat b)) + bitPolynomial (crcBits Config.crcPoly) -
        (X ^ 16 + bitPolynomial (crcBits (r.shiftConcat b))) = generatorPolynomial := by
      rw [add_comm (X ^ 16), add_sub_add_left_eq_sub, CharTwo.sub_eq_add, add_comm, bitPolynomial_crcBits_crcPoly]
    simp [hsum]

/-- The invariant of R130: after any bits the register is congruent to their polynomial modulo `G(x)`. -/
theorem generatorPolynomial_dvd_foldl_crcBit (bits : List Bool) :
    generatorPolynomial ∣ bitPolynomial bits - bitPolynomial (crcBits (bits.foldl crcBit 0x0000#16)) := by
  induction bits using List.reverseRecOn with
  | nil => simp [bitPolynomial_crcBits_zero]
  | append_singleton bits b ih =>
    have hstep := generatorPolynomial_dvd_crcBit (bits.foldl crcBit 0x0000#16) b
    rw [bitPolynomial_concat, List.foldl_concat]
    convert dvd_sub (ih.mul_right X) hstep using 1
    ring

/-- `crc16` is the remainder by `G(x)` (R130): congruent to the message, and of degree below 16. -/
theorem bitPolynomial_crcBits_crc16 (m : List Byte) :
    bitPolynomial (crcBits (crc16 m)) = bitPolynomial (m.flatMap bitsMSB) %ₘ generatorPolynomial := by
  have hdeg : (bitPolynomial (crcBits (crc16 m))).degree < generatorPolynomial.degree := by
    rw [degree_generatorPolynomial]
    exact (degree_bitPolynomial_lt _).trans_eq (by rw [crcBits_length]; rfl)
  have hdvd := generatorPolynomial_dvd_foldl_crcBit (m.flatMap bitsMSB)
  rw [← foldl_crcByte] at hdvd
  rw [modByMonic_eq_of_dvd_sub generatorPolynomial_monic hdvd]
  exact ((modByMonic_eq_self_iff generatorPolynomial_monic).mpr hdeg).symm

/-- Two zero bytes behind a message multiply it by `x^16`. -/
theorem bitPolynomial_append_two_zero_bytes (m : List Byte) :
    bitPolynomial ((m ++ [0x00#8, 0x00#8]).flatMap bitsMSB) = bitPolynomial (m.flatMap bitsMSB) * X ^ 16 := by
  have hzero : ([0x00#8, 0x00#8] : List Byte).flatMap bitsMSB = List.replicate 16 false := by decide
  rw [List.flatMap_append, hzero, bitPolynomial_append, bitPolynomial_replicate_false, add_zero, List.length_replicate]

end

/-! ### The CRC operations, issued without a fault (R126 to R128) -/

section
variable {s : State} (hf : s.st.fault = false)
include hf

theorem exec_crcByte (imm : BitVec 8) : exec (.crcByte imm) s = .next (s.setCrc (crcByte s.crc imm)) := by
  rw [exec, execCrcByte, issue_running hf]

theorem exec_crcFlush : exec .crcFlush s = .next (s.setCrc (crcFlush s.crc)) := by
  rw [exec, execCrcFlush, issue_running hf]

theorem exec_crcVfy (imm : BitVec 16) :
    exec (.crcVfy imm) s =
      .next ((s.setCrc (crcFlush s.crc)).setSt { s.st with vok := decide (crcFlush s.crc = imm) }) := by
  rw [exec, execCrcVfy, issue_running hf]
  rfl

/-- The bytes of a message, shifted in one after the other (R87). -/
theorem execAll_crcStr (m : List Byte) : execAll (crcStr m) s = .next (s.setCrc (m.foldl crcByte s.crc)) := by
  induction m generalizing s with
  | nil => rfl
  | cons b m ih => exact (execAll_cons (exec_crcByte hf b) _).trans (ih (s := s.setCrc (crcByte s.crc b)) hf)

/-- `CRC.CLR` and a message before further operations leave the `crc16` of the message to them. -/
theorem execAll_crcClr_crcStr_append (m : List Byte) (is : List Instr) :
    execAll (.crcClr :: crcStr m ++ is) s = execAll is (s.setCrc (crc16 m)) :=
  execAll_append ((execAll_cons (exec_crcClr hf) _).trans (execAll_crcStr (s := s.setCrc 0x0000#16) hf m)) is

end

/-! ### The obligations -/

/-- Settles O28: the register invariant, for the message and for the message with two zero bytes behind it. -/
theorem crcIsThePolynomialRemainder : Obligations.CrcIsThePolynomialRemainder := by
  unfold Obligations.CrcIsThePolynomialRemainder
  intro m
  refine ⟨bitPolynomial_crcBits_crc16 m, ?_⟩
  rw [storedCrc_eq_crc16, bitPolynomial_crcBits_crc16, bitPolynomial_append_two_zero_bytes]

/-- Settles O29: linearity from register 0, the residue from linearity. -/
theorem crcIsLinearWithZeroResidue : Obligations.CrcIsLinearWithZeroResidue := by
  unfold Obligations.CrcIsLinearWithZeroResidue
  refine ⟨fun a b h => foldl_crcByte_xor h 0x0000#16 0x0000#16, crc16_append_beBytes_crcFlush, fun m => ?_⟩
  exact ⟨storedCrc m, verifyCrc_iff.mpr rfl, fun _ => verifyCrc_iff.mp⟩

/-- Settles O30: zero bytes keep the register at 0, whether they lead a message or flush an empty one. -/
theorem crcOfShortAndZeroLedMessages : Obligations.CrcOfShortAndZeroLedMessages := by
  unfold Obligations.CrcOfShortAndZeroLedMessages
  refine ⟨fun _ => toNat_crc16_of_length_le, fun k m => ?_, ?_⟩
  · have hzero := crc16_replicate_zero k
    rw [crc16] at hzero
    rw [crc16, List.foldl_append, hzero, crc16]
  · exact (storedCrc_eq_crc16 []).trans (crc16_replicate_zero 2)

/-- Settles O25: `crcByte` is the fold of the bit step over `bitsMSB`. -/
theorem crcByteShiftsEightBits : Obligations.CrcByteShiftsEightBits := by
  unfold Obligations.CrcByteShiftsEightBits
  exact fun imm _ hf => ⟨congrArg (0x11#8 :: ·) (beBytes_one_toNat imm), exec_crcByte hf imm⟩

/-- Settles O26: flushing a register of 1 twice gives another value than flushing it once. -/
theorem crcFlushIsTwoZeroBytes : Obligations.CrcFlushIsTwoZeroBytes := by
  unfold Obligations.CrcFlushIsTwoZeroBytes
  refine ⟨fun s hf => ⟨rfl, exec_crcFlush hf, ?_, fun h => ?_, fun m => ?_⟩, 0x0001#16, by decide +kernel⟩
  · rw [exec_crcFlush hf]
    exact (execAll_crcStr hf [0x00#8, 0x00#8]).symm
  · have hhello : crcFlush 0x0750#16 = 0xC362#16 := by decide +kernel
    rw [exec_crcFlush hf, h, hhello, State.setCrc]
  · rw [crcMsg, execAll_crcClr_crcStr_append hf]
    exact execAll_cons (exec_crcFlush (s := s.setCrc (crc16 m)) hf) []

/-- Settles O27: the operand bytes are `beBytes_toNat`, the next state `exec_crcVfy`, from any register and after a message. -/
theorem crcVfyReportsTheComparison : Obligations.CrcVfyReportsTheComparison := by
  unfold Obligations.CrcVfyReportsTheComparison
  intro imm s hf
  refine ⟨congrArg (0x13#8 :: ·) (beBytes_toNat imm 2), exec_crcVfy hf imm, fun m => ?_⟩
  rw [execAll_crcClr_crcStr_append hf]
  exact execAll_cons (exec_crcVfy (s := s.setCrc (crc16 m)) hf imm) []

end Sys2Proof.Machine

/-! PROOFS. The alphabet (rules R135 to R137 of `42_alphabet.md`). Everything rests on one reading of `classify`
(`classify_eq_sym_iff_inv`): it answers as `INV` does, because no skip byte is in the alphabet. The two laws
`classify_alpha` and `alpha_of_classify` then make `INV` the inverse of `ALPHA` in both directions. -/

namespace Sys2Proof.Machine

/-! ### The encode table (R135) -/

/-- `ALPHA` in symbol order is its table. -/
theorem map_alpha_range : ((List.range 64).map fun n => alpha (BitVec.ofNat 6 n)) = alphaTable := by
  apply List.ext_getElem
  · rw [List.length_map, List.length_range, alphaTable_length]
  · intro n hn hn'
    rw [alphaTable_length] at hn'
    rw [List.getElem_map, List.getElem_range, alpha, BitVec.toNat_ofNat, Nat.mod_eq_of_lt hn',
      List.getD_eq_getElem _ _ (alphaTable_length ▸ hn')]

/-- The table as byte values. -/
theorem map_toNat_alpha_range :
    ((List.range 64).map fun n => (alpha (BitVec.ofNat 6 n)).toNat) = alphaTable.map BitVec.toNat := by
  rw [← map_alpha_range, List.map_map]
  rfl

/-- The 64 entries are pairwise distinct: the table is strictly increasing (R135). -/
theorem alphaTable_nodup : alphaTable.Nodup := by
  have hsorted : alphaTable.Pairwise (· < ·) := by decide
  exact hsorted.imp BitVec.ne_of_lt

/-! ### The decode table (R136) -/

theorem inv_eq_none_iff {c : Byte} : inv c = none ↔ c ∉ alphaTable := by
  rw [inv, Option.map_eq_none_iff, List.idxOf?_eq_none_iff]

/-- `classify` answers `skip` for the three skip bytes only: its other branch has no such answer (R137). -/
theorem classify_eq_skip_iff {c : Byte} : classify c = .skip ↔ c = 0x0D#8 ∨ c = 0x0A#8 ∨ c = 0xFF#8 := by
  rw [classify]
  split
  next hskip => exact iff_of_true rfl hskip
  next hskip =>
    refine iff_of_false ?_ hskip
    split <;> exact nofun

/-- The skip bytes are not in the alphabet, so the order of the first two tests of `classify` does not matter (R137). -/
theorem inv_eq_none_of_skip {c : Byte} (h : c = 0x0D#8 ∨ c = 0x0A#8 ∨ c = 0xFF#8) : inv c = none := by
  rw [inv_eq_none_iff]
  rcases h with rfl | rfl | rfl <;> decide

/-- `classify` finds a symbol exactly where `INV` has one (R137). -/
theorem classify_eq_sym_iff_inv {c : Byte} {y : Symbol} : classify c = .sym y ↔ inv c = some y := by
  rw [classify]
  split
  next hskip => simp [inv_eq_none_of_skip hskip]
  next => cases inv c <;> simp

theorem classify_eq_sym_iff {c : Byte} {y : Symbol} : classify c = .sym y ↔ alpha y = c :=
  ⟨alpha_of_classify, fun h => h ▸ classify_alpha y⟩

/-- `INV` inverts `ALPHA` both ways (R136). -/
theorem inv_eq_some_iff {c : Byte} {y : Symbol} : inv c = some y ↔ alpha y = c :=
  classify_eq_sym_iff_inv.symm.trans classify_eq_sym_iff

/-- What is neither skipped nor a symbol is invalid (R137). -/
theorem classify_eq_invalid_iff {c : Byte} :
    classify c = .invalid ↔ classify c ≠ .skip ∧ ∀ y, classify c ≠ .sym y := by
  cases classify c <;> simp

/-- The byte values for which `INV` has a symbol are the 64 of the table, in some order. -/
theorem filter_isSome_inv_perm :
    ((List.range 256).filter fun n => (inv (BitVec.ofNat 8 n)).isSome).Perm (alphaTable.map BitVec.toNat) := by
  refine (List.perm_ext_iff_of_nodup (List.nodup_range.filter _)
    (alphaTable_nodup.map fun _ _ => BitVec.eq_of_toNat_eq)).mpr fun n => ?_
  simp only [List.mem_filter, List.mem_range, List.mem_map, Option.isSome_iff_ne_none, ne_eq, inv_eq_none_iff, not_not]
  constructor
  · rintro ⟨hn, hmem⟩
    exact ⟨_, hmem, (BitVec.toNat_ofNat _ 8).trans (Nat.mod_eq_of_lt hn)⟩
  · rintro ⟨c, hmem, rfl⟩
    exact ⟨c.isLt, by rwa [BitVec.ofNat_toNat, BitVec.setWidth_eq]⟩

/-- `INV` is `none` for the other 192 byte values (R136). -/
theorem length_filter_isNone_inv :
    ((List.range 256).filter fun n => (inv (BitVec.ofNat 8 n)).isNone).length = 192 := by
  have hsome := filter_isSome_inv_perm.length_eq
  have hall := (List.range 256).length_eq_length_filter_add fun n => (inv (BitVec.ofNat 8 n)).isSome
  simp only [List.length_map, alphaTable_length, List.length_range, Option.not_isSome] at hsome hall
  omega

/-- Settles O31: the table entry by entry, `INV` and `classify` through the reading of `classify` by `INV`. -/
theorem alphabetIsABijection : Obligations.AlphabetIsABijection := by
  unfold Obligations.AlphabetIsABijection
  refine ⟨map_toNat_alpha_range.trans (by decide), map_toNat_alpha_range.trans (by decide),
    fun y => inv_eq_some_iff.mpr rfl, fun c y => inv_eq_some_iff.mp, length_filter_isNone_inv,
    fun c => classify_eq_skip_iff, fun c y => classify_eq_sym_iff, fun c => ?_⟩
  simp only [classify_eq_invalid_iff, ne_eq, classify_eq_skip_iff, classify_eq_sym_iff, not_or, and_assoc]

end Sys2Proof.Machine

/-! PROOFS. The packer (rules R145 to R153 of `43_packer.md`). Packing is described by symbols, in two layers. The line: the
symbols that an operation emits stand in `TXT` as `wrapSymbols` lays them out (`lineOut`). The bits: packing a byte string
and flushing emits `packedSymbols` of it, cut three bytes at a time. The length of the text then comes from the line layer,
the symbol count and R153 from the bits layer: the unpacker skips what the line layer adds to the symbols. -/

namespace Sys2Proof.Machine

/-! ### The line (R145) -/

theorem wrapSymbols_append (xs ys : List Symbol) (col : Nat) :
    wrapSymbols col (xs ++ ys) =
      ((wrapSymbols col xs).1 ++ (wrapSymbols (wrapSymbols col xs).2 ys).1,
        (wrapSymbols (wrapSymbols col xs).2 ys).2) := by
  induction xs generalizing col with
  | nil => rfl
  | cons x xs ih =>
    rw [List.cons_append, wrapSymbols, wrapSymbols]
    split <;> rw [ih] <;> rfl

/-- The column counts symbols modulo the line length. -/
theorem wrapSymbols_snd {col : Nat} (hcol : col < 64) (ys : List Symbol) :
    (wrapSymbols col ys).2 = (col + ys.length) % 64 := by
  induction ys generalizing col with
  | nil => exact (Nat.mod_eq_of_lt hcol).symm
  | cons y ys ih =>
    rw [wrapSymbols, Config.lineLength, List.length_cons]
    split
    next hend => rw [ih (by omega : 0 < 64)]; omega
    next hend => rw [ih (by omega : col + 1 < 64)]; omega

theorem wrapSymbols_snd_lt {col : Nat} (hcol : col < 64) (ys : List Symbol) : (wrapSymbols col ys).2 < 64 := by
  rw [wrapSymbols_snd hcol]
  exact Nat.mod_lt _ (by decide)

/-- Each full line adds CR and LF to its symbols. -/
theorem length_wrapSymbols {col : Nat} (hcol : col < 64) (ys : List Symbol) :
    (wrapSymbols col ys).1.length = ys.length + 2 * ((col + ys.length) / 64) := by
  induction ys generalizing col with
  | nil => simp [wrapSymbols, Nat.div_eq_of_lt hcol]
  | cons y ys ih =>
    rw [wrapSymbols, Config.lineLength, List.length_cons]
    split
    next hend => rw [List.length_cons, List.length_cons, List.length_cons, ih (by omega : 0 < 64)]; omega
    next hend => rw [List.length_cons, ih (by omega : col + 1 < 64)]; omega

theorem mem_wrapSymbols {col : Nat} {ys : List Symbol} {ch : Byte} (h : ch ∈ (wrapSymbols col ys).1) :
    ch = Config.cr ∨ ch = Config.lf ∨ ∃ y, alpha y = ch := by
  induction ys generalizing col with
  | nil => cases h
  | cons y ys ih =>
    rw [wrapSymbols] at h
    split at h
    · rcases h with _ | ⟨_, _ | ⟨_, _ | ⟨_, h⟩⟩⟩
      · exact .inr (.inr ⟨y, rfl⟩)
      · exact .inl rfl
      · exact .inr (.inl rfl)
      · exact ih h
    · rcases h with _ | ⟨_, h⟩
      · exact .inr (.inr ⟨y, rfl⟩)
      · exact ih h

/-- The packer after it emitted `ys` from column `col`, with the state and carry it is left in, and the bytes appended. -/
def lineOut (st : BitVec 2) (carry : BitVec 6) (col : Nat) (ys : List Symbol) : PkRegs × List Byte :=
  ({ st := st, carry := carry, col := BitVec.ofNat 7 (wrapSymbols col ys).2 }, (wrapSymbols col ys).1)

theorem lineOut_col {st : BitVec 2} {carry : BitVec 6} {col : Nat} (hcol : col < 64) (ys : List Symbol) :
    (lineOut st carry col ys).1.col.toNat = (wrapSymbols col ys).2 := by
  have hlt := wrapSymbols_snd_lt hcol ys
  exact (BitVec.toNat_ofNat _ 7).trans (Nat.mod_eq_of_lt (by omega))

/-- Emitting symbols in two parts. -/
theorem lineOut_append (st : BitVec 2) (carry : BitVec 6) (col : Nat) (xs ys : List Symbol) :
    lineOut st carry col (xs ++ ys) =
      ((lineOut st carry (wrapSymbols col xs).2 ys).1,
        (wrapSymbols col xs).1 ++ (lineOut st carry (wrapSymbols col xs).2 ys).2) := by
  simp only [lineOut, wrapSymbols_append]

theorem lineOut_nil (p : PkRegs) : lineOut p.st p.carry p.col.toNat [] = (p, []) := by
  simp [lineOut, wrapSymbols]

/-- `pk_sym` puts one symbol on the line (R145). -/
theorem pkSymOut_eq_lineOut {p : PkRegs} (hcol : p.col.toNat < 64) (y : Symbol) :
    pkSymOut p y = lineOut p.st p.carry p.col.toNat [y] := by
  have hend : p.col + 1 = 64#7 ↔ p.col.toNat + 1 = 64 := by bv_omega
  rw [pkSymOut, lineOut, wrapSymbols, Config.lineLength]
  by_cases h : p.col.toNat + 1 = 64
  · rw [if_pos (hend.mpr h), if_pos h]
    rfl
  · rw [if_neg (mt hend.mp h), if_neg h]
    simp [wrapSymbols, BitVec.ofNat_add]

/-! ### The bits (R148, R150) -/

/-- What the first byte of a cycle leaves in the carry. -/
def firstCarry (b : Byte) : BitVec 6 := ((b &&& 0x03#8) <<< 4).setWidth 6

/-- What the second byte of a cycle leaves in the carry. -/
def secondCarry (b : Byte) : BitVec 6 := ((b &&& 0x0F#8) <<< 2).setWidth 6

/-- The symbols that a flush makes of the carry of a pending group. -/
def padding (m : PkFlush) (carry : BitVec 6) : List Symbol := if m = .zeroPad then [carry] else []

-- The masks and shifts of `pk_byte` as the ranges of bits that R148 names.
section
variable (b : Byte)

theorem firstSymbol_eq_extractLsb' : (b >>> 2).setWidth 6 = b.extractLsb' 2 6 := by revert b; decide

theorem firstCarry_eq_append : firstCarry b = b.extractLsb' 0 2 ++ 0#4 := by revert b; decide

theorem secondPart_eq_append : (b >>> 4).setWidth 6 = 0#2 ++ b.extractLsb' 4 4 := by revert b; decide

theorem secondCarry_eq_append : secondCarry b = b.extractLsb' 0 4 ++ 0#2 := by revert b; decide

theorem thirdPart_eq_append : (b >>> 6).setWidth 6 = 0#4 ++ b.extractLsb' 6 2 := by revert b; decide

theorem fourthSymbol_eq_extractLsb' : (b &&& 0x3F#8).setWidth 6 = b.extractLsb' 0 6 := by revert b; decide

end

section
variable {p : PkRegs} (hcol : p.col.toNat < 64)
include hcol

theorem pkByteOut_of_st_zero (hst : p.st = 0#2) (b : Byte) :
    pkByteOut p b = lineOut 1#2 (firstCarry b) p.col.toNat [(b >>> 2).setWidth 6] := by
  rw [pkByteOut, if_pos hst, pkSymOut_eq_lineOut hcol]
  rfl

theorem pkByteOut_of_st_one (hst : p.st = 1#2) (b : Byte) :
    pkByteOut p b = lineOut 2#2 (secondCarry b) p.col.toNat [p.carry ||| (b >>> 4).setWidth 6] := by
  have hne : p.st ≠ 0#2 := by simp [hst]
  rw [pkByteOut, if_neg hne, if_pos hst, pkSymOut_eq_lineOut hcol]
  rfl

theorem pkByteOut_of_st_two (hst : p.st = 2#2) (b : Byte) :
    pkByteOut p b =
      lineOut 0#2 0#6 p.col.toNat [p.carry ||| (b >>> 6).setWidth 6, (b &&& 0x3F#8).setWidth 6] := by
  have hne : p.st ≠ 0#2 ∧ p.st ≠ 1#2 := by simp [hst]
  have hcol' := lineOut_col (st := p.st) (carry := p.carry) hcol [p.carry ||| (b >>> 6).setWidth 6]
  have hlt := hcol'.trans_lt (wrapSymbols_snd_lt hcol _)
  rw [pkByteOut, if_neg hne.1, if_neg hne.2, pkSymOut_eq_lineOut hcol]
  dsimp only
  rw [pkSymOut_eq_lineOut hlt, hcol']
  exact (lineOut_append 0#2 0#6 p.col.toNat [_] [_]).symm

/-- A pending group is padded to one more symbol under `ZERO_PAD` and dropped under `NONE` (R150). -/
theorem pkFlushOut_of_pending (hst : p.st ≠ 0#2) (m : PkFlush) :
    pkFlushOut m p = lineOut 0#2 0#6 p.col.toNat (padding m p.carry) := by
  cases m with
  | zeroPad => rw [pkFlushOut, if_pos ⟨hst, rfl⟩, pkSymOut_eq_lineOut hcol]; rfl
  | none =>
    rw [pkFlushOut, if_neg (by simp)]
    exact (lineOut_nil { p with st := 0#2, carry := 0#6 }).symm

end

/-- Without a pending group, or under `NONE`, the flush emits nothing (R150). -/
theorem pkFlushOut_of_silent {m : PkFlush} {p : PkRegs} (h : p.st = 0#2 ∨ m = .none) :
    pkFlushOut m p = ({ p with carry := 0#6, st := 0#2 }, []) := by
  refine if_neg ?_
  rintro ⟨hst, rfl⟩
  rcases h with h | h
  · exact hst h
  · cases h

theorem pkFlushOut_st (m : PkFlush) (p : PkRegs) : (pkFlushOut m p).1.st = 0#2 := by
  unfold pkFlushOut; split <;> rfl

theorem pkFlushOut_carry (m : PkFlush) (p : PkRegs) : (pkFlushOut m p).1.carry = 0#6 := by
  unfold pkFlushOut; split <;> rfl

/-- A second flush does nothing (R150). -/
theorem pkFlushOut_pkFlushOut (m : PkFlush) (p : PkRegs) :
    pkFlushOut m (pkFlushOut m p).1 = ((pkFlushOut m p).1, []) := by
  rw [pkFlushOut_of_silent (.inl (pkFlushOut_st m p)), ← pkFlushOut_st m p, ← pkFlushOut_carry m p]

/-- The symbols of a byte string, packed from state 0 and flushed: four for three bytes (R148, R150). -/
def packedSymbols (m : PkFlush) : List Byte → List Symbol
  | [] => []
  | [x] => (x >>> 2).setWidth 6 :: padding m (firstCarry x)
  | [x, y] => (x >>> 2).setWidth 6 :: (firstCarry x ||| (y >>> 4).setWidth 6) :: padding m (secondCarry y)
  | x :: y :: z :: rest =>
    (x >>> 2).setWidth 6 :: (firstCarry x ||| (y >>> 4).setWidth 6) :: (secondCarry y ||| (z >>> 6).setWidth 6) ::
      (z &&& 0x3F#8).setWidth 6 :: packedSymbols m rest

/-- R152: `ceil(8n/6)` symbols under `ZERO_PAD` and `floor(8n/6)` under `NONE`. -/
theorem length_packedSymbols (m : PkFlush) : ∀ x : List Byte,
    (packedSymbols m x).length = if m = .zeroPad then (8 * x.length + 5) / 6 else 8 * x.length / 6
  | [] => by simp [packedSymbols]
  | [x] => by cases m <;> simp [packedSymbols, padding]
  | [x, y] => by cases m <;> simp [packedSymbols, padding]
  | x :: y :: z :: rest => by
    have ih := length_packedSymbols m rest
    simp only [packedSymbols, List.length_cons, ih]
    split <;> omega

/-- Bytes through the packer and then a flush, as a function of the packer's registers. -/
def packOut (m : PkFlush) (p : PkRegs) (x : List Byte) : PkRegs × List Byte :=
  ((pkFlushOut m (pkBytesOut p x).1).1, (pkBytesOut p x).2 ++ (pkFlushOut m (pkBytesOut p x).1).2)

theorem packOut_nil (m : PkFlush) (p : PkRegs) : packOut m p [] = pkFlushOut m p := rfl

theorem packOut_cons (m : PkFlush) (p : PkRegs) (b : Byte) (x : List Byte) :
    packOut m p (b :: x) =
      ((packOut m (pkByteOut p b).1 x).1, (pkByteOut p b).2 ++ (packOut m (pkByteOut p b).1 x).2) := by
  simp only [packOut, pkBytesOut, List.append_assoc]

/-- A first byte that puts `ys` on the line, before bytes that put `zs` on it from the state and carry it leaves. -/
theorem packOut_cons_of_lineOut {m : PkFlush} {p : PkRegs} {b : Byte} {x : List Byte} {st : BitVec 2}
    {carry : BitVec 6} {ys zs : List Symbol} (hcol : p.col.toNat < 64)
    (hb : pkByteOut p b = lineOut st carry p.col.toNat ys)
    (hx : ∀ q : PkRegs, q.col.toNat < 64 → q.st = st → q.carry = carry →
      packOut m q x = lineOut 0#2 0#6 q.col.toNat zs) :
    packOut m p (b :: x) = lineOut 0#2 0#6 p.col.toNat (ys ++ zs) := by
  have hcol' := lineOut_col (st := st) (carry := carry) hcol ys
  rw [packOut_cons, hb, hx _ (hcol'.trans_lt (wrapSymbols_snd_lt hcol ys)) rfl rfl, hcol', lineOut_append]
  rfl

/-- Packing from state 0 and flushing puts the packed symbols on the line (R148, R150). -/
theorem packOut_eq_lineOut (m : PkFlush) : ∀ (x : List Byte) (p : PkRegs), p.col.toNat < 64 → p.st = 0#2 →
    packOut m p x = lineOut 0#2 0#6 p.col.toNat (packedSymbols m x)
  | [], p, hcol, hst => by
    rw [packOut_nil, pkFlushOut_of_silent (.inl hst)]
    exact (lineOut_nil { p with st := 0#2, carry := 0#6 }).symm
  | [x], p, hcol, hst => by
    refine packOut_cons_of_lineOut (zs := padding m (firstCarry x)) hcol (pkByteOut_of_st_zero hcol hst x)
      fun q hq hst₁ hcarry₁ => ?_
    rw [packOut_nil, pkFlushOut_of_pending hq (by simp [hst₁]), hcarry₁]
  | [x, y], p, hcol, hst => by
    refine packOut_cons_of_lineOut hcol (pkByteOut_of_st_zero hcol hst x) fun q hq hst₁ hcarry₁ => ?_
    rw [← hcarry₁]
    refine packOut_cons_of_lineOut (zs := padding m (secondCarry y)) hq (pkByteOut_of_st_one hq hst₁ y)
      fun r hr hst₂ hcarry₂ => ?_
    rw [packOut_nil, pkFlushOut_of_pending hr (by simp [hst₂]), hcarry₂]
  | x :: y :: z :: rest, p, hcol, hst => by
    refine packOut_cons_of_lineOut hcol (pkByteOut_of_st_zero hcol hst x) fun q hq hst₁ hcarry₁ => ?_
    rw [← hcarry₁]
    refine packOut_cons_of_lineOut hq (pkByteOut_of_st_one hq hst₁ y) fun r hr hst₂ hcarry₂ => ?_
    rw [← hcarry₂]
    exact packOut_cons_of_lineOut hr (pkByteOut_of_st_two hr hst₂ z) fun t ht hst₃ _ =>
      packOut_eq_lineOut m rest t ht hst₃

/-! ### The unpacker on packed symbols (R162) -/

/-- A sequence of symbols through the unpacker. -/
def upSymsOut : UpRegs → List Symbol → UpRegs × List Byte
  | u, [] => (u, [])
  | u, y :: ys => ((upSymsOut (upSymOut u y).1 ys).1, (upSymOut u y).2 ++ (upSymsOut (upSymOut u y).1 ys).2)

section
variable (c : BitVec 8) (y : Symbol)

theorem upSymOut_of_st_zero : upSymOut ⟨0#2, c⟩ y = (⟨1#2, y.setWidth 8 <<< 2⟩, []) := rfl

theorem upSymOut_of_st_one :
    upSymOut ⟨1#2, c⟩ y = (⟨2#2, (y &&& 0x0F#6).setWidth 8 <<< 4⟩, [c ||| (y >>> 4).setWidth 8]) := rfl

theorem upSymOut_of_st_two :
    upSymOut ⟨2#2, c⟩ y = (⟨3#2, (y &&& 0x03#6).setWidth 8 <<< 6⟩, [c ||| (y >>> 2).setWidth 8]) := rfl

theorem upSymOut_of_st_three : upSymOut ⟨3#2, c⟩ y = (⟨0#2, 0#8⟩, [c ||| y.setWidth 8]) := rfl

end

/-- The first byte of a cycle stands in the first two symbols. -/
theorem unpack_first_byte (x y : Byte) :
    ((x >>> 2).setWidth 6).setWidth 8 <<< 2 ||| ((firstCarry x ||| (y >>> 4).setWidth 6) >>> 4).setWidth 8 = x := by
  unfold firstCarry
  ext i hi
  interval_cases i <;> simp

/-- The second byte of a cycle stands in the second and third symbols. -/
theorem unpack_second_byte (x y z : Byte) :
    ((firstCarry x ||| (y >>> 4).setWidth 6) &&& 0x0F#6).setWidth 8 <<< 4 |||
      ((secondCarry y ||| (z >>> 6).setWidth 6) >>> 2).setWidth 8 = y := by
  unfold firstCarry secondCarry
  ext i hi
  interval_cases i <;> simp

/-- The third byte of a cycle stands in the third and fourth symbols. -/
theorem unpack_third_byte (y z : Byte) :
    ((secondCarry y ||| (z >>> 6).setWidth 6) &&& 0x03#6).setWidth 8 <<< 6 |||
      ((z &&& 0x3F#8).setWidth 6).setWidth 8 = z := by
  unfold secondCarry
  ext i hi
  interval_cases i <;> simp

/-- The symbols of a group of three bytes, unpacked from state 0, give the three bytes and return to state 0. -/
theorem upSymsOut_group (x y z : Byte) (ys : List Symbol) :
    upSymsOut UpRegs.reset ((x >>> 2).setWidth 6 :: (firstCarry x ||| (y >>> 4).setWidth 6) ::
      (secondCarry y ||| (z >>> 6).setWidth 6) :: (z &&& 0x3F#8).setWidth 6 :: ys) =
      ((upSymsOut UpRegs.reset ys).1, x :: y :: z :: (upSymsOut UpRegs.reset ys).2) := by
  simp only [UpRegs.reset, upSymsOut, upSymOut_of_st_zero, upSymOut_of_st_one, upSymOut_of_st_two, upSymOut_of_st_three,
    unpack_first_byte, unpack_second_byte, unpack_third_byte, List.nil_append, List.cons_append]

/-- The padded carry of a group of one byte is its second symbol, with nothing behind the byte's bits. -/
theorem upSymsOut_group_one (m : PkFlush) (x : Byte) :
    (upSymsOut UpRegs.reset ((x >>> 2).setWidth 6 :: padding m (firstCarry x))).2 =
      if m = .zeroPad then [x] else [] := by
  have hzero : firstCarry x ||| (0#8 >>> 4).setWidth 6 = firstCarry x := by simp
  have hx := unpack_first_byte x 0#8
  rw [hzero] at hx
  cases m with
  | zeroPad => simp only [padding, UpRegs.reset, upSymsOut, upSymOut_of_st_zero, upSymOut_of_st_one, hx, if_true,
      List.nil_append, List.append_nil]
  | none => rfl

/-- The padded carry of a group of two bytes is its third symbol; dropped, it takes the second byte with it. -/
theorem upSymsOut_group_two (m : PkFlush) (x y : Byte) :
    (upSymsOut UpRegs.reset ((x >>> 2).setWidth 6 :: (firstCarry x ||| (y >>> 4).setWidth 6) ::
      padding m (secondCarry y))).2 = if m = .zeroPad then [x, y] else [x] := by
  have hzero : secondCarry y ||| (0#8 >>> 6).setWidth 6 = secondCarry y := by simp
  have hy := unpack_second_byte x y 0#8
  rw [hzero] at hy
  cases m with
  | zeroPad => simp only [padding, UpRegs.reset, upSymsOut, upSymOut_of_st_zero, upSymOut_of_st_one, upSymOut_of_st_two,
      unpack_first_byte, hy, if_true, List.nil_append, List.append_nil, List.cons_append]
  | none => exact congrArg (fun b => [b]) (unpack_first_byte x y)

/-- What the unpacker gives back of a packed byte string (R153). -/
def unpacked (m : PkFlush) (x : List Byte) : List Byte := if m = .zeroPad ∨ x.length % 3 = 0 then x else x.dropLast

theorem unpacked_group (m : PkFlush) (x y z : Byte) (rest : List Byte) :
    unpacked m (x :: y :: z :: rest) = x :: y :: z :: unpacked m rest := by
  have hmod : (x :: y :: z :: rest).length % 3 = rest.length % 3 := Nat.add_mod_right rest.length 3
  rw [unpacked, unpacked, hmod]
  split
  · rfl
  next h =>
    have hne : rest ≠ [] := fun hnil => h (.inr (by rw [hnil, List.length_nil]))
    rw [List.dropLast_cons_of_ne_nil (by simp), List.dropLast_cons_of_ne_nil (by simp),
      List.dropLast_cons_of_ne_nil hne]

/-- Unpacking inverts packing on symbols (R153). -/
theorem upSymsOut_packedSymbols (m : PkFlush) : ∀ x : List Byte,
    (upSymsOut UpRegs.reset (packedSymbols m x)).2 = unpacked m x
  | [] => by simp [packedSymbols, upSymsOut, unpacked]
  | [x] => by simp [packedSymbols, upSymsOut_group_one, unpacked]
  | [x, y] => by simp [packedSymbols, upSymsOut_group_two, unpacked]
  | x :: y :: z :: rest => by
    rw [packedSymbols, upSymsOut_group, unpacked_group, upSymsOut_packedSymbols m rest]

/-- Symbols through the unpacker without the link to the RLE decoder: their bytes go to `PKD` (R64, R162). -/
theorem foldl_upSym_eq {u : State} (hlink : u.ctl.lUpRd = false) (ys : List Symbol) :
    ys.foldl upSym u = (u.setPkd (u.pkd ++ (upSymsOut u.up ys).2)).setUp (upSymsOut u.up ys).1 := by
  induction ys generalizing u with
  | nil => simp [upSymsOut]
  | cons y ys ih =>
    have hstep : upSym u y = (u.setPkd (u.pkd ++ (upSymOut u.up y).2)).setUp (upSymOut u.up y).1 := by
      rw [upSym_eq, deliverUp_eq, if_neg (by simp [hlink])]
    rw [List.foldl_cons, hstep, ih (by exact hlink)]
    simp only [upSymsOut, State.setUp_up, State.setUp_pkd, State.setPkd_pkd, List.append_assoc]
    rfl

/-! ### The operations, issued without a fault (R147 to R151, R161) -/

section
variable {s : State} (hf : s.st.fault = false)
include hf

theorem exec_pkBegin : exec .pkBegin s = .next (s.setTxt (s.txt ++ (fileMarker ++ [Config.colon]))) := by
  rw [exec, execPkBegin, issue_running hf, State.appendTxt_eq]

theorem exec_pkByte (imm : BitVec 8) :
    exec (.pkByte imm) s = .next ((s.setPk (pkByteOut s.pk imm).1).setTxt (s.txt ++ (pkByteOut s.pk imm).2)) := by
  rw [exec, execPkByte, issue_running hf, pkByte_eq]

theorem exec_pkFlush :
    exec .pkFlush s =
      .next ((s.setPk (pkFlushOut s.params.pkFlush s.pk).1).setTxt (s.txt ++ (pkFlushOut s.params.pkFlush s.pk).2)) := by
  rw [exec, execPkFlush, issue_running hf, pkFlush_eq]

theorem exec_pkEnd :
    exec .pkEnd s = .next ((pkFlush s).setTxt ((pkFlush s).txt ++ [Config.colon, Config.cr, Config.lf])) := by
  rw [exec, execPkEnd, issue_running hf, State.appendTxt_eq]

/-- `PK.STR` packs its bytes one after the other (R87). -/
theorem execAll_pkStr (x : List Byte) :
    execAll (pkStr x) s = .next ((s.setPk (pkBytesOut s.pk x).1).setTxt (s.txt ++ (pkBytesOut s.pk x).2)) := by
  rw [← foldl_pkByte_eq]
  induction x generalizing s with
  | nil => rfl
  | cons b x ih =>
    have hb : exec (.pkByte b) s = .next (pkByte s b) := by rw [exec_pkByte hf, pkByte_eq]
    have hf' : (pkByte s b).st.fault = false := by rw [pkByte_eq]; exact hf
    exact (execAll_cons hb _).trans (ih hf')

theorem execAll_pkStr_pkFlush (x : List Byte) :
    execAll (pkStr x ++ [.pkFlush]) s =
      .next ((s.setPk (packOut s.params.pkFlush s.pk x).1).setTxt (s.txt ++ (packOut s.params.pkFlush s.pk x).2)) := by
  rw [execAll_append (execAll_pkStr hf x)]
  refine (execAll_cons (exec_pkFlush (by exact hf)) []).trans ?_
  simp only [execAll_nil, packOut, State.setTxt_pk, State.setPk_pk, State.setTxt_txt, List.append_assoc]
  rfl

/-- From an empty line and state 0, packing and flushing adds the packed symbols to `TXT`, wrapped. -/
theorem execAll_pkStr_pkFlush_of_reset (hpk : s.pk = PkRegs.reset) (x : List Byte) :
    execAll (pkStr x ++ [.pkFlush]) s =
      .next ((s.setPk (lineOut 0#2 0#6 0 (packedSymbols s.params.pkFlush x)).1).setTxt
        (s.txt ++ (wrapSymbols 0 (packedSymbols s.params.pkFlush x)).1)) := by
  rw [execAll_pkStr_pkFlush hf, hpk, packOut_eq_lineOut _ x PkRegs.reset (by decide) rfl]
  rfl

/-- A skipped byte changes nothing (R161). -/
theorem exec_upChar_of_skip {c : Byte} (h : classify c = .skip) : exec (.upChar c) s = .next s := by
  rw [exec, execUpChar, issue_running hf, h]

/-- An alphabet character goes to `up_sym` as its symbol (R161). -/
theorem exec_upChar_alpha (y : Symbol) : exec (.upChar (alpha y)) s = .next (upSym s y) := by
  rw [exec, execUpChar, issue_running hf, classify_alpha]

/-- The unpacker takes from wrapped lines their symbols: CR and LF are skipped (R161). -/
theorem execAll_upStr_wrapSymbols (col : Nat) (ys : List Symbol) :
    execAll (upStr (wrapSymbols col ys).1) s = .next (ys.foldl upSym s) := by
  induction ys generalizing s col with
  | nil => rfl
  | cons y ys ih =>
    have hf' : (upSym s y).st.fault = false := by
      rw [upSym_eq, deliverUp_eq]
      split <;> exact hf
    rw [wrapSymbols]
    split
    · refine (execAll_cons (exec_upChar_alpha hf y) _).trans ?_
      refine (execAll_cons (exec_upChar_of_skip hf' classify_cr) _).trans ?_
      exact (execAll_cons (exec_upChar_of_skip hf' classify_lf) _).trans (ih hf' 0)
    · exact (execAll_cons (exec_upChar_alpha hf y) _).trans (ih hf' (col + 1))

end

/-! ### The obligations -/

/-- Settles O37: the line breaks are skipped, and unpacking inverts packing on symbols. -/
theorem unpackInvertsPack : Obligations.UnpackInvertsPack := by
  unfold Obligations.UnpackInvertsPack
  intro x s hf hpk
  refine ⟨_, _, execAll_pkStr_pkFlush_of_reset hf hpk x, rfl, fun u huf hlink hup => ?_⟩
  refine ⟨_, execAll_upStr_wrapSymbols huf 0 _, ?_⟩
  rw [foldl_upSym_eq hlink, show u.up = UpRegs.reset from hup]
  exact ⟨huf, congrArg (u.pkd ++ ·) (upSymsOut_packedSymbols _ x)⟩

/-- Settles O36: the number of symbols, and the layout of that many symbols from column 0. -/
theorem packedTextHasTheStatedLength : Obligations.PackedTextHasTheStatedLength := by
  unfold Obligations.PackedTextHasTheStatedLength
  intro x s hf hpk
  refine ⟨_, _, execAll_pkStr_pkFlush_of_reset hf hpk x, rfl, ?_⟩
  intro c hc
  rw [← length_packedSymbols] at hc
  subst hc
  have hlen := length_wrapSymbols (by decide : 0 < 64) (packedSymbols s.params.pkFlush x)
  have hcol := wrapSymbols_snd (by decide : 0 < 64) (packedSymbols s.params.pkFlush x)
  rw [Nat.zero_add] at hlen hcol
  exact ⟨hlen, (lineOut_col (by decide) _).trans hcol, fun _ => mem_wrapSymbols⟩

/-- Settles O32: the marker line of the statement, character by character. -/
theorem pkBeginWritesTheMarker : Obligations.PkBeginWritesTheMarker := by
  unfold Obligations.PkBeginWritesTheMarker
  intro s hf
  have hmarker : fileMarker ++ [Config.colon] =
      "(This file must be converted with BinHex 4.0)\n\n:".toList.map fun ch => BitVec.ofNat 8 ch.toNat := by decide
  rw [← hmarker]
  exact ⟨rfl, exec_pkBegin hf⟩

/-- Settles O33: one case for each state, with the masks and shifts of R148 read as ranges of bits. -/
theorem pkByteCutsSymbols : Obligations.PkByteCutsSymbols := by
  unfold Obligations.PkByteCutsSymbols
  intro imm s ys carry st hf hle hcut
  have hcol : s.pk.col.toNat < 64 := by bv_omega
  refine ⟨congrArg (0x22#8 :: ·) (beBytes_one_toNat imm), ?_⟩
  have hout : pkByteOut s.pk imm = lineOut st carry s.pk.col.toNat ys := by
    rcases hcut with ⟨hst, rfl, rfl, rfl⟩ | ⟨hst, rfl, rfl, rfl⟩ | ⟨hst, rfl, rfl, rfl⟩
    · rw [pkByteOut_of_st_zero hcol hst, firstCarry_eq_append, firstSymbol_eq_extractLsb']
    · rw [pkByteOut_of_st_one hcol hst, secondCarry_eq_append, secondPart_eq_append]
    · rw [pkByteOut_of_st_two hcol hst, thirdPart_eq_append, fourthSymbol_eq_extractLsb']
  rw [exec_pkByte hf, hout]
  rfl

/-- Settles O34: padding for a pending group under `ZERO_PAD`, nothing otherwise, and nothing a second time. -/
theorem pkFlushPadsOrDrops : Obligations.PkFlushPadsOrDrops := by
  unfold Obligations.PkFlushPadsOrDrops
  intro s hf hle
  have hcol : s.pk.col.toNat < 64 := by bv_omega
  refine ⟨rfl, fun hst hzero => ?_, fun h => ?_, ?_⟩
  · rw [exec_pkFlush hf, pkFlushOut_of_pending hcol hst, hzero]
    rfl
  · rw [exec_pkFlush hf, pkFlushOut_of_silent h, List.append_nil]
    rfl
  · refine (execAll_cons (exec_pkFlush hf) _).trans ?_
    refine (execAll_cons (exec_pkFlush (by exact hf)) []).trans ?_
    simp only [State.setTxt_params, State.setPk_params, State.setTxt_pk, State.setPk_pk, pkFlushOut_pkFlushOut,
      List.append_nil, exec_pkFlush hf]
    rfl

/-- Settles O35: the flush that `PK.END` performs is the effect of `PK.FLUSH`. -/
theorem pkEndClosesTheText : Obligations.PkEndClosesTheText := by
  unfold Obligations.PkEndClosesTheText
  exact fun s hf => ⟨rfl, pkFlush s, issue_running hf pkFlush, exec_pkEnd hf⟩

end Sys2Proof.Machine

/-! PROOFS. The unpacker (rules R161 to R164 of `44_unpacker.md`). `UP.STR` without an invalid byte runs `up_sym` over the
symbols that `INV` finds, and the number of bytes these give follows from the state alone (`length_upSymsOut`): every
symbol emits one byte, except the first of a cycle of four. -/

namespace Sys2Proof.Machine

/-! ### The bits (R162) -/

-- The masks and shifts of `up_sym` as the ranges of bits that R162 names.
section
variable (y : Symbol)

theorem symbol_shiftLeft_two_eq_append : y.setWidth 8 <<< 2 = y ++ 0#2 := by revert y; decide

theorem symbol_high_two_eq_append : (y >>> 4).setWidth 8 = 0#6 ++ y.extractLsb' 4 2 := by revert y; decide

theorem symbol_low_four_eq_append : (y &&& 0x0F#6).setWidth 8 <<< 4 = y.extractLsb' 0 4 ++ 0#4 := by revert y; decide

theorem symbol_high_four_eq_append : (y >>> 2).setWidth 8 = 0#4 ++ y.extractLsb' 2 4 := by revert y; decide

theorem symbol_low_two_eq_append : (y &&& 0x03#6).setWidth 8 <<< 6 = y.extractLsb' 0 2 ++ 0#6 := by revert y; decide

theorem symbol_setWidth_eq_append : y.setWidth 8 = 0#2 ++ y := by revert y; decide

end

/-- `up_sym` raises no fault (R162). -/
theorem upSym_st (s : State) (y : Symbol) : (upSym s y).st = s.st := by
  rw [upSym_eq, deliverUp_eq]
  split <;> rfl

/-! ### The number of bytes (R164) -/

/-- A symbol advances the state, and emits a byte when `floor(3k/4)` grows with it (R162, R164). -/
theorem upSymOut_counts (u : UpRegs) (y : Symbol) :
    (upSymOut u y).1.st.toNat = (u.st.toNat + 1) % 4 ∧
      (upSymOut u y).2.length + 3 * u.st.toNat / 4 = 3 * (u.st.toNat + 1) / 4 := by
  obtain ⟨st, carry⟩ := u
  have hst : st = 0#2 ∨ st = 1#2 ∨ st = 2#2 ∨ st = 3#2 := by revert st; decide
  rcases hst with rfl | rfl | rfl | rfl
  · simp [upSymOut_of_st_zero]
  · simp [upSymOut_of_st_one]
  · simp [upSymOut_of_st_two]
  · simp [upSymOut_of_st_three]

/-- Each full cycle of four symbols stands for three bytes. -/
theorem three_mul_div_four_eq (k n : Nat) : 3 * (k + n) / 4 = 3 * (k % 4 + n) / 4 + 3 * (k / 4) := by omega

/-- State `k` stands for `k` symbols of the cycle already read, with `floor(3k/4)` bytes emitted for them (R164). -/
theorem length_upSymsOut (u : UpRegs) (ys : List Symbol) :
    (upSymsOut u ys).2.length + 3 * u.st.toNat / 4 = 3 * (u.st.toNat + ys.length) / 4 := by
  induction ys generalizing u with
  | nil => simp [upSymsOut]
  | cons y ys ih =>
    obtain ⟨hst, hlen⟩ := upSymOut_counts u y
    have hrest := ih (upSymOut u y).1
    have hnow := three_mul_div_four_eq (u.st.toNat + 1) 0
    have hend := three_mul_div_four_eq (u.st.toNat + 1) ys.length
    rw [hst] at hrest
    rw [upSymsOut, List.length_append, List.length_cons, Nat.add_comm ys.length, ← Nat.add_assoc]
    omega

/-- Without invalid bytes, what is not skipped is a symbol (R137). -/
theorem length_filterMap_inv {chars : List Byte} (hvalid : ∀ ch ∈ chars, classify ch ≠ .invalid) :
    (chars.filterMap inv).length = (chars.filter fun ch => classify ch ≠ .skip).length := by
  rw [List.length_filterMap_eq_countP, ← List.countP_eq_length_filter]
  refine List.countP_congr fun ch hch => ?_
  rw [Option.isSome_iff_exists, decide_eq_true_iff]
  simp only [← classify_eq_sym_iff_inv]
  cases hclass : classify ch with
  | skip => simp
  | sym y => simp
  | invalid => exact absurd hclass (hvalid ch hch)

/-! ### The operations, issued without a fault (R161, R163) -/

section
variable {s : State} (hf : s.st.fault = false)
include hf

/-- An invalid byte raises `BadFormat` in the state it finds (R161). -/
theorem exec_upChar_of_invalid {c : Byte} (h : classify c = .invalid) :
    exec (.upChar c) s = .next (raise .badFormat s) := by
  rw [exec, execUpChar, issue_running hf, h]

theorem exec_upEnd : exec .upEnd s = .next (s.setUp { carry := 0#8, st := 0#2 }) := by
  rw [exec, execUpEnd, issue_running hf]

/-- `UP.STR` without an invalid byte hands the symbols of its text to `up_sym`, in order (R87, R161). -/
theorem execAll_upStr {chars : List Byte} (hvalid : ∀ ch ∈ chars, classify ch ≠ .invalid) :
    execAll (upStr chars) s = .next ((chars.filterMap inv).foldl upSym s) := by
  induction chars generalizing s with
  | nil => rfl
  | cons ch chars ih =>
    obtain ⟨hch, hchars⟩ := List.forall_mem_cons.mp hvalid
    cases hclass : classify ch with
    | skip =>
      rw [List.filterMap_cons_none (inv_eq_none_of_skip (classify_eq_skip_iff.mp hclass))]
      exact (execAll_cons (exec_upChar_of_skip hf hclass) _).trans (ih hf hchars)
    | sym y =>
      have hf' : (upSym s y).st.fault = false := by rw [upSym_st, hf]
      rw [List.filterMap_cons_some (classify_eq_sym_iff_inv.mp hclass), ← alpha_of_classify hclass]
      exact (execAll_cons (exec_upChar_alpha hf y) _).trans (ih hf' hchars)
    | invalid => exact absurd hclass hch

end

/-! ### The obligations -/

/-- Settles O41: the bytes counted on the symbols that `INV` finds in the text. -/
theorem unpackedCountIgnoresSkippedBytes : Obligations.UnpackedCountIgnoresSkippedBytes := by
  unfold Obligations.UnpackedCountIgnoresSkippedBytes
  intro chars s hf hlink hup hvalid
  refine ⟨_, execAll_upStr hf hvalid, ?_⟩
  have hcount := length_upSymsOut UpRegs.reset (chars.filterMap inv)
  rw [length_filterMap_inv hvalid] at hcount
  rw [foldl_upSym_eq hlink, show s.up = UpRegs.reset from hup, State.setUp_pkd, State.setPkd_pkd, List.length_append]
  refine ⟨rfl, congrArg (s.pkd.length + ·) ?_⟩
  simpa [UpRegs.reset] using hcount

/-- Settles O38: one case for each state, with the masks and shifts of R162 read as ranges of bits. -/
theorem upCharUnpacksASymbol : Obligations.UpCharUnpacksASymbol := by
  unfold Obligations.UpCharUnpacksASymbol
  intro y s out carry st hf hrule
  have hout : upSymOut s.up y = (⟨st, carry⟩, out) := by
    generalize s.up = u at hrule
    obtain ⟨k, c⟩ := u
    rcases hrule with ⟨rfl, rfl, rfl, rfl⟩ | ⟨rfl, rfl, rfl, rfl⟩ | ⟨rfl, rfl, rfl, rfl⟩ | ⟨rfl, rfl, rfl, rfl⟩
    · rw [upSymOut_of_st_zero, symbol_shiftLeft_two_eq_append]
    · rw [upSymOut_of_st_one, symbol_high_two_eq_append, symbol_low_four_eq_append]
    · rw [upSymOut_of_st_two, symbol_high_four_eq_append, symbol_low_two_eq_append]
    · rw [upSymOut_of_st_three, symbol_setWidth_eq_append]
  rw [exec_upChar_alpha hf, upSym_eq, hout, deliverUp]
  split <;> rfl

/-- Settles O39: the readings of `skip` and `invalid` in `classify`, and the next state of each. -/
theorem upCharSkipsOrRejectsOtherBytes : Obligations.UpCharSkipsOrRejectsOtherBytes := by
  unfold Obligations.UpCharSkipsOrRejectsOtherBytes
  intro imm s hf
  refine ⟨congrArg (0x31#8 :: ·) (beBytes_one_toNat imm),
    fun hskip => exec_upChar_of_skip hf (classify_eq_skip_iff.mpr hskip), ?_⟩
  rintro ⟨hcr, hlf, hff, hnone⟩
  have hskip : classify imm ≠ .skip := fun h => by simpa [hcr, hlf, hff] using classify_eq_skip_iff.mp h
  have hinvalid : classify imm = .invalid :=
    classify_eq_invalid_iff.mpr ⟨hskip, fun y h => hnone y (classify_eq_sym_iff.mp h)⟩
  rw [exec_upChar_of_invalid hf hinvalid, raise_eq]
  rfl

/-- Settles O40: `UP.END` writes the unpacker's registers and nothing else. -/
theorem upEndDropsPendingBits : Obligations.UpEndDropsPendingBits := by
  unfold Obligations.UpEndDropsPendingBits
  exact fun s hf => ⟨rfl, exec_upEnd hf⟩

end Sys2Proof.Machine

/-! PROOFS. The RLE decoder (rules R172 to R174 of `45_rle_decoder.md`). `rd_byte` is read once per branch, on the
decoder's registers (`rdByteOut`); the operations then follow from `rdByte_eq` and `raise_eq`. -/

namespace Sys2Proof.Machine

/-! ### The four cases of `rd_byte` (R172) -/

/-- A marker is held, and nothing is output yet. -/
theorem rdByteOut_marker {r : RdRegs} (hno : r.has = false) :
    rdByteOut r Config.marker = ({ r with has := true }, []) := by
  rw [rdByteOut, if_pos hno, if_pos rfl]

/-- A literal is output and recorded. -/
theorem rdByteOut_literal {r : RdRegs} {b : Byte} (hno : r.has = false) (hb : b ≠ Config.marker) :
    rdByteOut r b = ({ has := false, last := b }, [b]) := by
  rw [rdByteOut, if_pos hno, if_neg hb, hno]

/-- The count `0x00` after a marker stands for the marker itself, which is output and recorded. -/
theorem rdByteOut_escape {r : RdRegs} (hhas : r.has = true) :
    rdByteOut r 0x00#8 = ({ has := false, last := Config.marker }, [Config.marker]) := by
  rw [rdByteOut, if_neg (ne_false_of_eq_true hhas), if_pos rfl]

/-- Any other count after a marker repeats the last literal, whose first occurrence is already output. -/
theorem rdByteOut_run {r : RdRegs} {n : Byte} (hhas : r.has = true) (hn : n ≠ 0x00#8) :
    rdByteOut r n = ({ r with has := false }, List.replicate (n.toNat - 1) r.last) := by
  rw [rdByteOut, if_neg (ne_false_of_eq_true hhas), if_neg hn]

/-! ### The operations, issued without a fault (R173, R174) -/

section
variable {s : State} (hf : s.st.fault = false)
include hf

theorem exec_rdByte (b : Byte) :
    exec (.rdByte b) s = .next ((s.setRd (rdByteOut s.rd b).1).setRaw (s.raw ++ (rdByteOut s.rd b).2)) := by
  rw [exec, execRdByte, issue_running hf, rdByte_eq]

theorem exec_rdEnd_of_no_marker (hno : s.rd.has = false) : exec .rdEnd s = .next s := by
  rw [exec, execRdEnd, issue_running hf, if_neg (ne_true_of_eq_false hno)]

theorem exec_rdEnd_of_marker (hhas : s.rd.has = true) :
    exec .rdEnd s = .next (raise .badRunLengthEncoding s) := by
  rw [exec, execRdEnd, issue_running hf, if_pos hhas]

end

/-! ### The obligations -/

/-- Settles O42: one case of `rd_byte` for each clause; where a marker is taken, the output appended is empty. -/
theorem rdByteExpands : Obligations.RdByteExpands := by
  unfold Obligations.RdByteExpands
  intro imm s hf
  refine ⟨congrArg (0x41#8 :: ·) (beBytes_one_toNat imm), fun hno himm => ?_, fun hno himm => ?_,
    fun hhas himm => ?_, fun hhas himm => ?_⟩
  · rw [himm, exec_rdByte hf, show 0x90#8 = Config.marker from rfl, rdByteOut_marker hno, List.append_nil]
    rfl
  · rw [exec_rdByte hf, rdByteOut_literal hno himm]
    rfl
  · rw [himm, exec_rdByte hf, rdByteOut_escape hhas]
    rfl
  · rw [exec_rdByte hf, rdByteOut_run hhas himm]
    rfl

/-- Settles O43: `RD.HAS` decides between no change and the fault entry of cause 2. -/
theorem rdEndChecksTheMarker : Obligations.RdEndChecksTheMarker := by
  unfold Obligations.RdEndChecksTheMarker
  refine fun s hf => ⟨rfl, exec_rdEnd_of_no_marker hf, fun hhas => ?_⟩
  rw [exec_rdEnd_of_marker hf hhas, raise_eq]
  rfl

end Sys2Proof.Machine

/-! PROOFS. The RLE encoder (rules R181 to R186 of `46_rle_encoder.md`). The bytes it has emitted, and those that
`RE.END` would still emit, expand to the bytes it has taken: the encoder's registers stand for the input held back
(`heldBytes`), and one byte more either lengthens it or moves all of it to the output (`reByteOut_cases`). -/

namespace Sys2Proof.Machine

/-! ### Bytes that expand to given bytes (R171, R185) -/

/-- The RLE decoder, from any state without an unconsumed marker, outputs `x` for the bytes `e` and is again without
one; and `e` is at most twice as long (R186). -/
structure ExpandsTo (e x : List Byte) : Prop where
  length_le : e.length ≤ 2 * x.length
  decodes : ∀ l, ∃ l', rdBytesOut ⟨false, l⟩ e = (⟨false, l'⟩, x)

namespace ExpandsTo

theorem nil : ExpandsTo [] [] := ⟨Nat.le_refl 0, fun l => ⟨l, rfl⟩⟩

theorem append {e e' x x' : List Byte} (h : ExpandsTo e x) (h' : ExpandsTo e' x') : ExpandsTo (e ++ e') (x ++ x') where
  length_le := by
    have hle := h.length_le
    have hle' := h'.length_le
    simp only [List.length_append]
    omega
  decodes l := by
    obtain ⟨k, hk⟩ := h.decodes l
    obtain ⟨k', hk'⟩ := h'.decodes k
    exact ⟨k', by rw [rdBytesOut_append, hk, hk']⟩

end ExpandsTo

/-- The literal item of a byte expands to the byte, which a run after it repeats, the marker included (R171 a, b). -/
theorem rdBytesOut_litBytes (l v : Byte) : rdBytesOut ⟨false, l⟩ (litBytes v) = (⟨false, v⟩, [v]) := by
  unfold litBytes
  split
  · next hv => rw [hv]; rfl
  · next hv => rw [rdBytesOut, rdByteOut_literal rfl hv]; rfl

theorem length_litBytes_le (v : Byte) : (litBytes v).length ≤ 2 := by
  unfold litBytes
  split <;> simp

theorem expandsTo_litBytes (v : Byte) : ExpandsTo (litBytes v) [v] :=
  ⟨length_litBytes_le v, fun l => ⟨v, rdBytesOut_litBytes l v⟩⟩

theorem expandsTo_literals (v : Byte) (n : Nat) :
    ExpandsTo (List.replicate n (litBytes v)).flatten (List.replicate n v) := by
  induction n with
  | zero => exact .nil
  | succ n ih => exact (expandsTo_litBytes v).append ih

/-- A byte with a marker and a count after it expands to that many such bytes (R171 c). -/
theorem expandsTo_run (v : Byte) {n : BitVec 8} (hn : 2 ≤ n.toNat) :
    ExpandsTo (litBytes v ++ [Config.marker, n]) (List.replicate n.toNat v) where
  length_le := by
    have hlit := length_litBytes_le v
    simp only [List.length_append, List.length_cons, List.length_nil, List.length_replicate]
    omega
  decodes l := by
    have hne : n ≠ 0x00#8 := by rintro rfl; simp at hn
    have hcount : [v] ++ List.replicate (n.toNat - 1) v = List.replicate n.toNat v := by
      rw [List.singleton_append, ← List.replicate_succ, Nat.sub_add_cancel (by omega)]
    refine ⟨v, ?_⟩
    rw [rdBytesOut_append, rdBytesOut_litBytes]
    have hrun : rdByteOut ⟨true, v⟩ n = (⟨false, v⟩, List.replicate (n.toNat - 1) v) := rdByteOut_run rfl hne
    simp only [rdBytesOut, rdByteOut_marker, hrun, List.nil_append, List.append_nil, hcount]

/-- What `re_run` emits expands to the run (R181, R185). A run written with a count has at least two bytes, so the form
is not longer than two bytes for each of them. -/
theorem expandsTo_runBytes {m : Nat} (hm : 2 ≤ m) (v : Byte) (n : BitVec 8) :
    ExpandsTo (runBytes m v n) (List.replicate n.toNat v) := by
  unfold runBytes
  split
  · next hmn => exact expandsTo_run v (hm.trans hmn)
  · exact expandsTo_literals v n.toNat

/-- R8: a run of one byte is never written with a count. -/
theorem two_le_reMinRun {p : Params} (h : p.wellFormed = true) : 2 ≤ p.reMinRun := by
  rw [Params.wellFormed, Bool.and_eq_true, decide_eq_true_eq] at h
  exact h.left

/-! ### The input held back (R28, R182) -/

/-- The bytes taken and not yet emitted: the pending run. -/
def heldBytes (r : ReRegs) : List Byte := if r.haveRun then List.replicate r.cnt.toNat r.cur else []

/-- What `RE.END` emits for the pending run (R184). -/
def drainBytes (m : Nat) (r : ReRegs) : List Byte := if r.haveRun then runBytes m r.cur r.cnt else []

theorem expandsTo_drainBytes {m : Nat} (hm : 2 ≤ m) (r : ReRegs) : ExpandsTo (drainBytes m r) (heldBytes r) := by
  unfold drainBytes heldBytes
  split
  · exact expandsTo_runBytes hm r.cur r.cnt
  · exact .nil

/-! ### The three cases of `re_byte` (R182) -/

section
variable {r : ReRegs} {b : Byte} (m : Nat)

theorem reByteOut_open (hidle : r.haveRun = false) :
    reByteOut m r b = ({ haveRun := true, cur := b, cnt := 1#8 }, []) := by
  rw [reByteOut, if_pos hidle]

theorem reByteOut_count (hrun : r.haveRun = true) (hb : b = r.cur) (hcnt : r.cnt ≠ 255#8) :
    reByteOut m r b = ({ r with cnt := r.cnt + 1 }, []) := by
  rw [reByteOut, if_neg (ne_false_of_eq_true hrun), if_pos ⟨hb, by bv_omega⟩]

theorem reByteOut_emit (hrun : r.haveRun = true) (hb : b ≠ r.cur ∨ r.cnt = 255#8) :
    reByteOut m r b = ({ haveRun := true, cur := b, cnt := 1#8 }, runBytes m r.cur r.cnt) := by
  have hnot : ¬(b = r.cur ∧ r.cnt < 255#8) := fun ⟨heq, hlt⟩ => hb.elim (· heq) fun hfull => by bv_omega
  rw [reByteOut, if_neg (ne_false_of_eq_true hrun), if_neg hnot, hrun]

/-- A byte either joins the input held back and nothing is emitted, or all that was held is emitted and the byte alone
is held. -/
theorem reByteOut_cases (r : ReRegs) (b : Byte) :
    ((reByteOut m r b).2 = [] ∧ heldBytes (reByteOut m r b).1 = heldBytes r ++ [b]) ∨
      ((reByteOut m r b).2 = drainBytes m r ∧ heldBytes (reByteOut m r b).1 = [b]) := by
  cases hrun : r.haveRun with
  | false => exact .inl (by simp [reByteOut_open m hrun, heldBytes, hrun])
  | true =>
    by_cases hb : b = r.cur ∧ r.cnt ≠ 255#8
    · obtain ⟨rfl, hcnt⟩ := hb
      have hnowrap : (r.cnt.toNat + 1) % 256 = r.cnt.toNat + 1 := by bv_omega
      exact .inl (by simp [reByteOut_count m hrun rfl hcnt, heldBytes, hrun, hnowrap, List.replicate_succ'])
    · have hemit : b ≠ r.cur ∨ r.cnt = 255#8 := by rwa [not_and_or, not_not] at hb
      exact .inr (by simp [reByteOut_emit m hrun hemit, heldBytes, drainBytes, hrun])

end

/-- The encoder's output for `x`, with the pending run emitted after it, expands to what was held back before and `x`
(R185). -/
theorem expandsTo_reBytesOut {m : Nat} (hm : 2 ≤ m) (x : List Byte) (r : ReRegs) :
    ExpandsTo ((reBytesOut m r x).2 ++ drainBytes m (reBytesOut m r x).1) (heldBytes r ++ x) := by
  induction x generalizing r with
  | nil => simpa [reBytesOut] using expandsTo_drainBytes hm r
  | cons b x ih =>
    have hrest := ih (reByteOut m r b).1
    rw [reBytesOut, List.append_assoc]
    rcases reByteOut_cases m r b with ⟨hout, hheld⟩ | ⟨hout, hheld⟩
    · rw [hheld, List.append_assoc] at hrest
      rw [hout]
      exact hrest
    · rw [hheld] at hrest
      rw [hout]
      exact (expandsTo_drainBytes hm r).append hrest

/-! ### The operations, issued without a fault (R183, R184, R87) -/

/-- Delivery and the write of the encoder's registers, with the link (R63) read. -/
theorem deliverRe_setRe_of_link (s : State) (e : List Byte) (r : ReRegs) :
    (deliverRe s e).setRe r =
      if s.ctl.lRePk then { e.foldl pkByte s with re := r } else { s with re := r, rle := s.rle ++ e } := by
  unfold deliverRe
  split <;> rfl

section
variable {s : State} (hf : s.st.fault = false)
include hf

theorem exec_reByte (b : Byte) : exec (.reByte b) s = .next (reByte s b) := by
  rw [exec, execReByte, issue_running hf]

theorem exec_reEnd :
    exec .reEnd s = .next ((deliverRe s (drainBytes s.params.reMinRun s.re)).setRe ReRegs.reset) := by
  rw [exec, execReEnd, issue_running hf, drainBytes]
  split
  · rw [reRun_eq]; rfl
  · rw [deliverRe_nil]; rfl

theorem execAll_reStr (x : List Byte) : execAll (reStr x) s = .next (x.foldl reByte s) := by
  induction x generalizing s with
  | nil => rfl
  | cons b x ih =>
    have hst : (reByte s b).st = s.st := (reByte_encodes s b).st
    exact (execAll_cons (exec_reByte hf b) _).trans (ih (by rw [hst, hf]))

/-- `RE.STR` and `RE.END` deliver the output for the bytes and then the run still pending. -/
theorem execAll_reStr_reEnd (x : List Byte) :
    execAll (reStr x ++ [.reEnd]) s =
      .next ((deliverRe s ((reBytesOut s.params.reMinRun s.re x).2 ++
        drainBytes s.params.reMinRun (reBytesOut s.params.reMinRun s.re x).1)).setRe ReRegs.reset) := by
  have hst : (x.foldl reByte s).st = s.st := (foldl_encodes reByte_encodes x s).st
  rw [execAll_append (execAll_reStr hf x), execAll_cons (exec_reEnd (by rw [hst, hf])), execAll_nil, foldl_reByte_eq,
    State.setRe_re, State.setRe_params, deliverRe_params, deliverRe_setRe, State.setRe_setRe, deliverRe_append]

theorem execAll_rdStr (e : List Byte) :
    execAll (rdStr e) s = .next ((s.setRd (rdBytesOut s.rd e).1).setRaw (s.raw ++ (rdBytesOut s.rd e).2)) := by
  rw [← foldl_rdByte_eq]
  induction e generalizing s with
  | nil => rfl
  | cons b e ih =>
    have hb : exec (.rdByte b) s = .next (rdByte s b) := by rw [exec_rdByte hf, rdByte_eq]
    have hst : (rdByte s b).st = s.st := by rw [rdByte_eq]; rfl
    exact (execAll_cons hb _).trans (ih (by rw [hst, hf]))

/-- `RD.STR` over bytes that expand to `x`, then `RD.END`: `RAW` has grown by `x`, and no fault is raised. -/
theorem execAll_rdStr_rdEnd_of_expandsTo {e x : List Byte} (h : ExpandsTo e x) (hno : s.rd.has = false) :
    ∃ l, execAll (rdStr e ++ [.rdEnd]) s = .next ((s.setRd ⟨false, l⟩).setRaw (s.raw ++ x)) := by
  obtain ⟨l, hl⟩ := h.decodes s.rd.last
  have hrun := execAll_rdStr hf e
  rw [show s.rd = ⟨false, s.rd.last⟩ by rw [← hno], hl] at hrun
  refine ⟨l, ?_⟩
  rw [execAll_append hrun]
  exact execAll_cons (exec_rdEnd_of_no_marker (s := (s.setRd ⟨false, l⟩).setRaw (s.raw ++ x)) hf rfl) []

end

/-! ### The obligations -/

/-- Settles O46: from reset nothing is held back, so all that is emitted expands to `x`. -/
theorem expandInvertsRleEncode : Obligations.ExpandInvertsRleEncode := by
  unfold Obligations.ExpandInvertsRleEncode
  intro x s hf hlink hwf hre
  have hexpands := expandsTo_reBytesOut (two_le_reMinRun hwf) x s.re
  rw [show heldBytes s.re = [] by rw [hre]; rfl, List.nil_append] at hexpands
  refine ⟨_, _, execAll_reStr_reEnd hf x, ?_, hexpands.length_le, fun u hu hrd => ?_⟩
  · rw [State.setRe_rle, deliverRe_eq, if_neg (ne_true_of_eq_false hlink), State.setRle_rle]
  · obtain ⟨l, hl⟩ := execAll_rdStr_rdEnd_of_expandsTo hu hexpands (by rw [hrd])
    exact ⟨_, hl, hu, rfl⟩

/-- Settles O44: one case of `re_byte` for each clause; where the run is opened or counted, nothing is delivered. -/
theorem reByteCollectsRuns : Obligations.ReByteCollectsRuns := by
  unfold Obligations.ReByteCollectsRuns
  intro imm s hf
  rw [exec_reByte hf, reByte_eq]
  refine ⟨congrArg (0x51#8 :: ·) (beBytes_one_toNat imm), fun hidle => ?_, fun hrun himm hcnt => ?_,
    fun hrun himm e he => ?_⟩
  · rw [reByteOut_open _ hidle, deliverRe_nil]
    rfl
  · rw [reByteOut_count _ hrun himm hcnt, deliverRe_nil]
    rfl
  · rw [reByteOut_emit _ hrun himm, ← he, deliverRe_setRe_of_link]

/-- Settles O45: the registers are those of reset after `RE.END`, so a second one has nothing to emit. -/
theorem reEndDrainsTheRun : Obligations.ReEndDrainsTheRun := by
  unfold Obligations.ReEndDrainsTheRun
  refine fun s hf => ⟨rfl, fun e he => ?_, ?_⟩
  · rw [exec_reEnd hf, drainBytes, ← he, deliverRe_setRe_of_link]
    rfl
  · have hst := (deliverRe_encodes s (drainBytes s.params.reMinRun s.re)).st
    rw [execAll_cons (exec_reEnd hf), execAll_cons (exec_reEnd (by rw [State.setRe_st, hst, hf])), execAll_nil,
      exec_reEnd hf, State.setRe_re, show drainBytes _ ReRegs.reset = [] from rfl, deliverRe_nil, State.setRe_setRe]

end Sys2Proof.Machine

/-! PROOFS. The frame assembler (rules R195 to R204 of `47_frame_assembler.md`). The procedures of `FA.HDR` and
`FA.PUSH` are read as `assembled`: the bytes they deliver, the value left in `CRC.R`, the registers they write. For the
frame, each fork is followed from where it is opened or passed over: its bytes deliver it with its CRC and open the next
one, and what an empty fork leaves, the zero CRC field, is `withCrc []`. -/

namespace Sys2Proof.Machine

@[simp] theorem assembled_st (s : State) (bytes : List Byte) (r : CrcWord) (f : FaRegs) :
    (assembled s bytes r f).st = s.st := deliverFa_st s bytes

@[simp] theorem assembled_crc (s : State) (bytes : List Byte) (r : CrcWord) (f : FaRegs) :
    (assembled s bytes r f).crc = r := rfl

/-! ### The procedures, with the bytes they emit (R201 to R203) -/

/-- The bytes of `fa_next(RSRC)` (R202). -/
def faNextRsrcBytes (f : FaRegs) : List Byte := if f.rlen = 0#64 then [0x00#8, 0x00#8] else []

/-- The bytes of `fa_next(DATA)` (R202). -/
def faNextDataBytes (f : FaRegs) : List Byte :=
  if f.dlen = 0#64 then [0x00#8, 0x00#8] ++ faNextRsrcBytes f else []

/-- The zero CRC fields that `fa_next(DATA)` emits, one for each empty fork it passes. -/
theorem faNextDataBytes_eq_append (f : FaRegs) :
    faNextDataBytes f =
      (if f.dlen = 0#64 then [0x00#8, 0x00#8] else []) ++
        (if f.dlen = 0#64 ∧ f.rlen = 0#64 then [0x00#8, 0x00#8] else []) := by
  unfold faNextDataBytes faNextRsrcBytes
  by_cases hd : f.dlen = 0#64
  · simp only [hd, true_and, if_true]
  · simp only [hd, false_and, if_false, List.append_nil]

/-- `fa_next(DATA)` opens the first fork that is not empty, or is done. -/
theorem faNextDataRegs_eq (f : FaRegs) :
    faNextDataRegs f =
      { f with
        ph := if f.dlen ≠ 0#64 then .data else if f.rlen ≠ 0#64 then .rsrc else .done,
        rem := if f.dlen ≠ 0#64 then f.dlen.setWidth 32 else f.rlen.setWidth 32 } := by
  unfold faNextDataRegs faNextRsrcRegs
  split
  · next hd =>
    split
    · next hr => simp [hd, hr]
    · simp [hd]
  · simp

theorem faNextRsrc_eq (s : State) :
    faNextRsrc s = assembled s (faNextRsrcBytes s.fa) 0x0000#16 (faNextRsrcRegs s.fa) := by
  unfold faNextRsrc faNextRsrcBytes faNextRsrcRegs
  split
  · rw [faEmitAll_setCrc_eq_assembled, State.setFaFork_eq, setFa_assembled, assembled_fa]
  · rw [setCrc_eq_assembled, State.setFaFork_eq, setFa_assembled, assembled_fa]

theorem faNextData_eq (s : State) :
    faNextData s = assembled s (faNextDataBytes s.fa) 0x0000#16 (faNextDataRegs s.fa) := by
  unfold faNextData faNextDataBytes faNextDataRegs
  split
  · rw [faEmitAll_setCrc_eq_assembled, faNextRsrc_eq, assembled_assembled, assembled_fa]
  · rw [setCrc_eq_assembled, State.setFaFork_eq, setFa_assembled, assembled_fa]

theorem faEmitHeader_eq (s : State) :
    faEmitHeader s =
      assembled s (withCrc (faHeader s.fa) ++ faNextDataBytes s.fa) 0x0000#16 (faNextDataRegs s.fa) := by
  rw [faEmitHeader, faEmitAll_setCrc_eq_assembled, faNextData_eq, assembled_assembled, assembled_fa]
  rfl

theorem faCloseFork_of_data {s : State} (hph : s.fa.ph = .data) :
    faCloseFork s =
      assembled s (crcBytes (crcFlush s.crc) ++ faNextRsrcBytes s.fa) 0x0000#16 (faNextRsrcRegs s.fa) := by
  rw [faCloseFork, if_pos hph, faEmitAll_setCrc_eq_assembled, faNextRsrc_eq, assembled_assembled, assembled_fa]

theorem faCloseFork_of_rsrc {s : State} (hph : s.fa.ph = .rsrc) :
    faCloseFork s = assembled s (crcBytes (crcFlush s.crc)) (crcFlush s.crc) { s.fa with ph := .done } := by
  rw [faCloseFork, if_neg (by simp [hph]), faEmitAll_setCrc_eq_assembled, assembled_fa, setFa_assembled]

/-- `FA.PUSH` before it looks whether the fork is complete (R203). -/
theorem faPushByte_eq (s : State) (b : Byte) :
    faPushByte s b =
      if s.fa.rem - 1 = 0#32 then
        faCloseFork (assembled s [b] (crcByte s.crc b) { s.fa with rem := s.fa.rem - 1 })
      else assembled s [b] (crcByte s.crc b) { s.fa with rem := s.fa.rem - 1 } := by
  have hcount : (faEmit s b).setCrc (crcByte s.crc b) = assembled s [b] (crcByte s.crc b) s.fa := by
    rw [faEmit_eq, assembled, ← deliverFa_fa s [b]]
    rfl
  unfold faPushByte
  rw [hcount]
  rfl

/-! ### The header (R191, R201) -/

/-- `FA.NLEN` counts the name bytes that the header takes. -/
theorem length_take_name {f : FaRegs} (hn : f.nlen.toNat ≤ 255) :
    (f.name.toList.take f.nlen.toNat).length = f.nlen.toNat := by
  rw [List.length_take, Vector.length_toList, Nat.min_eq_left hn]

theorem length_headerBytes (name : List Byte) (type auth : BitVec 32) (flags : BitVec 16) (dlen rlen : Nat) :
    (headerBytes name type auth flags dlen rlen).length = name.length + 20 := by
  simp [headerBytes]

theorem checked_of_toNat_le {f : FaRegs} (hn : f.nlen.toNat ≤ 255) (hd : f.dlen.toNat ≤ 0xFFFFFFFF)
    (hr : f.rlen.toNat ≤ 0xFFFFFFFF) : f.Checked :=
  ⟨BitVec.le_def.mpr hn, BitVec.le_def.mpr hd, BitVec.le_def.mpr hr⟩

/-- With legal sizes no field of the header is truncated. -/
theorem faHeader_eq_headerBytes {f : FaRegs} (h : f.Checked) :
    faHeader f =
      headerBytes (f.name.toList.take f.nlen.toNat) f.type f.auth f.flags f.dlen.toNat f.rlen.toNat := by
  obtain ⟨hn, hd, hr⟩ := h
  rw [faHeader, headerBytes, length_take_name (BitVec.le_def.mp hn), BitVec.ofNat_toNat,
    toNat_setWidth_of_le_maxFork hd, toNat_setWidth_of_le_maxFork hr]

/-! ### The CRC field of a fork, and forks as lists of bytes -/

theorem withCrc_nil : withCrc [] = [0x00#8, 0x00#8] := by
  rw [withCrc, storedCrc, crcFlush, crc16, List.foldl_nil, crcByte_zero_zero, crcByte_zero_zero]
  rfl

/-- What `CRC.R` holds after the last byte of a fork. -/
theorem crc16_concat (x : List Byte) (b : Byte) : crc16 (x ++ [b]) = crcByte (crc16 x) b := List.foldl_concat ..

theorem withCrc_concat (x : List Byte) (b : Byte) :
    x ++ b :: crcBytes (crcFlush (crcByte (crc16 x) b)) = withCrc (x ++ [b]) := by
  rw [withCrc, storedCrc, crc16_concat, List.append_assoc]
  rfl

theorem faStr_append (x y : List Byte) : faStr (x ++ y) = faStr x ++ faStr y := List.map_append

theorem eq_zero_iff_of_toNat_eq_length {n : BitVec 64} {x : List Byte} (h : n.toNat = x.length) :
    n = 0#64 ↔ x = [] := by
  rw [← List.length_eq_zero_iff, ← h]
  exact BitVec.toNat_eq

/-! ### The operations, issued without a fault (R195, R201, R203) -/

/-- What `FA.NPUSH` does to the name buffer and its count while there is room (R195). -/
theorem faNamePush_of_lt {f : FaRegs} (h : f.nlen.toNat < 255) (b : Byte) :
    faNamePush b f = { f with name := f.name.setIfInBounds f.nlen.toNat b, nlen := f.nlen + 1 } :=
  if_pos (BitVec.lt_def.mpr h)

theorem faNamePush_of_le {f : FaRegs} (h : 255 ≤ f.nlen.toNat) (b : Byte) :
    faNamePush b f = { f with nlen := 256#9 } :=
  if_neg fun hlt => absurd h (not_le.mpr (BitVec.lt_def.mp hlt))

/-- `FA.NPUSH` writes the name buffer and its count only (R195). -/
theorem faNamePush_frame (b : Byte) (f : FaRegs) :
    faNamePush b f = { f with name := (faNamePush b f).name, nlen := (faNamePush b f).nlen } := by
  unfold faNamePush
  split <;> rfl

section
variable {s : State} (hf : s.st.fault = false)
include hf

/-- `FA.HDR` in phase `CFG`: the size checks in their order, then the header (R201, R253). -/
theorem exec_faHdr (hph : s.fa.ph = .cfg) :
    exec .faHdr s = .next
      (if Config.maxName < s.fa.nlen.toNat then raise .fileNameTooLong s
      else if Config.maxFork < s.fa.dlen then raise .dataTooLarge s
      else if Config.maxFork < s.fa.rlen then raise .resourceTooLarge s
      else faEmitHeader s) := by
  rw [exec, execFaHdr, issue_running hf, if_neg (not_not_intro hph)]

theorem exec_faHdr_of_checked (hph : s.fa.ph = .cfg) (h : s.fa.Checked) :
    exec .faHdr s = .next
      (assembled s (withCrc (headerBytes (s.fa.name.toList.take s.fa.nlen.toNat) s.fa.type s.fa.auth s.fa.flags
          s.fa.dlen.toNat s.fa.rlen.toNat) ++ faNextDataBytes s.fa) 0x0000#16 (faNextDataRegs s.fa)) := by
  have ⟨hn, hd, hr⟩ := h
  have hn : s.fa.nlen.toNat ≤ Config.maxName := BitVec.le_def.mp hn
  rw [exec_faHdr hf hph, if_neg (not_lt.mpr hn), if_neg (BitVec.not_lt.mpr hd),
    if_neg (BitVec.not_lt.mpr hr), faEmitHeader_eq, faHeader_eq_headerBytes h]

theorem exec_faPush (hopen : s.fa.ph = .data ∨ s.fa.ph = .rsrc) (b : Byte) :
    exec (.faPush b) s = .next (faPushByte s b) := by
  rw [exec, execFaPush, issue_running hf, decide_eq_true hopen, whenLegal_true]

/-- A byte that is not the last of its fork. -/
theorem exec_faPush_of_more (hopen : s.fa.ph = .data ∨ s.fa.ph = .rsrc) (hmore : s.fa.rem ≠ 1#32) (b : Byte) :
    exec (.faPush b) s =
      .next (assembled s [b] (crcByte s.crc b) { s.fa with rem := s.fa.rem - 1 }) := by
  rw [exec_faPush hf hopen, faPushByte_eq, if_neg (by bv_omega)]

/-- The last byte of the data fork closes it and opens the resource fork, or passes over it. -/
theorem exec_faPush_last_of_data (hph : s.fa.ph = .data) (hlast : s.fa.rem = 1#32) (b : Byte) :
    exec (.faPush b) s =
      .next (assembled s (b :: crcBytes (crcFlush (crcByte s.crc b)) ++ faNextRsrcBytes s.fa) 0x0000#16
        (faNextRsrcRegs s.fa)) := by
  have h0 : s.fa.rem - 1 = 0#32 := by rw [hlast]; rfl
  have hclose := faCloseFork_of_data (s := assembled s [b] (crcByte s.crc b) { s.fa with rem := s.fa.rem - 1 }) hph
  rw [exec_faPush hf (.inl hph), faPushByte_eq, if_pos h0, hclose, assembled_assembled]
  rfl

/-- The last byte of the resource fork closes it, and the frame is done. -/
theorem exec_faPush_last_of_rsrc (hph : s.fa.ph = .rsrc) (hlast : s.fa.rem = 1#32) (b : Byte) :
    exec (.faPush b) s =
      .next (assembled s (b :: crcBytes (crcFlush (crcByte s.crc b))) (crcFlush (crcByte s.crc b))
        { s.fa with ph := .done, rem := 0#32 }) := by
  have h0 : s.fa.rem - 1 = 0#32 := by rw [hlast]; rfl
  have hclose := faCloseFork_of_rsrc (s := assembled s [b] (crcByte s.crc b) { s.fa with rem := s.fa.rem - 1 }) hph
  rw [exec_faPush hf (.inr hph), faPushByte_eq, if_pos h0, hclose, assembled_assembled, assembled_fa, h0]
  rfl

/-! ### `FA.STR` on an open fork (R87, R203) -/

/-- Bytes that leave the fork open. -/
theorem execAll_faStr_of_more (hopen : s.fa.ph = .data ∨ s.fa.ph = .rsrc) {x : List Byte}
    (hmore : x.length < s.fa.rem.toNat) :
    execAll (faStr x) s =
      .next (assembled s x (x.foldl crcByte s.crc) { s.fa with rem := s.fa.rem - BitVec.ofNat 32 x.length }) := by
  induction x generalizing s with
  | nil =>
    have hrem : s.fa.rem - BitVec.ofNat 32 0 = s.fa.rem := BitVec.sub_zero _
    rw [List.length_nil, hrem, List.foldl_nil]
    exact congrArg Host.Outcome.next (setCrc_eq_assembled s s.crc)
  | cons b x ih =>
    rw [List.length_cons] at hmore
    have hrem : s.fa.rem - 1 - BitVec.ofNat 32 x.length = s.fa.rem - BitVec.ofNat 32 (x.length + 1) := by bv_omega
    have hrest := ih (s := assembled s [b] (crcByte s.crc b) { s.fa with rem := s.fa.rem - 1 })
      (by rw [assembled_st, hf]) hopen (by rw [assembled_fa]; bv_omega)
    rw [assembled_assembled, assembled_fa, hrem] at hrest
    exact (execAll_cons (exec_faPush_of_more hf hopen (by bv_omega) b) _).trans hrest

/-- All but the last byte of a fork. -/
theorem execAll_faStr_concat (hopen : s.fa.ph = .data ∨ s.fa.ph = .rsrc) {x : List Byte} {b : Byte} {u : State}
    (hlen : s.fa.rem.toNat = (x ++ [b]).length)
    (hlast : exec (.faPush b) (assembled s x (x.foldl crcByte s.crc) { s.fa with rem := 1#32 }) = .next u) :
    execAll (faStr (x ++ [b])) s = .next u := by
  rw [List.length_append, List.length_singleton] at hlen
  have hrem : s.fa.rem - BitVec.ofNat 32 x.length = 1#32 := by bv_omega
  have hmost := execAll_faStr_of_more hf hopen (x := x) (by omega)
  rw [hrem] at hmost
  rw [faStr_append, execAll_append hmost]
  exact execAll_cons hlast []

/-- All bytes of a data fork that has just been opened. -/
theorem execAll_faStr_of_data (hph : s.fa.ph = .data) (hcrc : s.crc = 0x0000#16) {x : List Byte} (hx : x ≠ [])
    (hlen : s.fa.rem.toNat = x.length) :
    execAll (faStr x) s =
      .next (assembled s (withCrc x ++ faNextRsrcBytes s.fa) 0x0000#16 (faNextRsrcRegs s.fa)) := by
  obtain ⟨y, b, rfl⟩ := (List.eq_nil_or_concat' x).resolve_left hx
  have hlast := exec_faPush_last_of_data
    (s := assembled s y (y.foldl crcByte s.crc) { s.fa with rem := 1#32 }) (by rw [assembled_st, hf]) hph rfl b
  refine execAll_faStr_concat hf (.inl hph) hlen (hlast.trans ?_)
  rw [assembled_crc, hcrc, ← crc16, assembled_assembled, ← List.append_assoc, withCrc_concat]
  rfl

/-- All bytes of a resource fork that has just been opened. -/
theorem execAll_faStr_of_rsrc (hph : s.fa.ph = .rsrc) (hcrc : s.crc = 0x0000#16) {x : List Byte} (hx : x ≠ [])
    (hlen : s.fa.rem.toNat = x.length) :
    execAll (faStr x) s = .next (assembled s (withCrc x) (storedCrc x) { s.fa with ph := .done, rem := 0#32 }) := by
  obtain ⟨y, b, rfl⟩ := (List.eq_nil_or_concat' x).resolve_left hx
  have hlast := exec_faPush_last_of_rsrc
    (s := assembled s y (y.foldl crcByte s.crc) { s.fa with rem := 1#32 }) (by rw [assembled_st, hf]) hph rfl b
  refine execAll_faStr_concat hf (.inr hph) hlen (hlast.trans ?_)
  rw [assembled_crc, hcrc, ← crc16, assembled_assembled, withCrc_concat, storedCrc, crc16_concat]
  rfl

/-- Before its last byte the open fork stays open. -/
theorem exists_execAll_faStr_ne_done (hopen : s.fa.ph = .data ∨ s.fa.ph = .rsrc) {x : List Byte}
    (hmore : x.length < s.fa.rem.toNat) : ∃ t, execAll (faStr x) s = .next t ∧ t.fa.ph ≠ .done := by
  refine ⟨_, execAll_faStr_of_more hf hopen hmore, ?_⟩
  rw [assembled_fa]
  rcases hopen with h | h <;> simp [h]

end

/-! ### A fork from the point where it is opened or passed over (R202, R203) -/

section
variable {s : State} {f : FaRegs} {x : List Byte} (hf : s.st.fault = false)
include hf

theorem execAll_faStr_data (hlen : f.dlen.toNat = x.length) (hd : f.dlen ≤ Config.maxFork) (sent : List Byte) :
    execAll (faStr x) (assembled s (sent ++ faNextDataBytes f) 0x0000#16 (faNextDataRegs f)) =
      .next (assembled s (sent ++ withCrc x ++ faNextRsrcBytes f) 0x0000#16 (faNextRsrcRegs f)) := by
  unfold faNextDataBytes faNextDataRegs
  split
  · next h0 =>
    obtain rfl := (eq_zero_iff_of_toNat_eq_length hlen).mp h0
    rw [withCrc_nil, ← List.append_assoc]
    rfl
  · next h0 =>
    have hx : x ≠ [] := h0 ∘ (eq_zero_iff_of_toNat_eq_length hlen).mpr
    rw [List.append_nil, execAll_faStr_of_data (by rw [assembled_st, hf]) rfl rfl hx
      ((toNat_setWidth_of_le_maxFork hd).trans hlen), assembled_assembled, ← List.append_assoc]
    rfl

theorem execAll_faStr_rsrc (hlen : f.rlen.toNat = x.length) (hr : f.rlen ≤ Config.maxFork) (sent : List Byte) :
    execAll (faStr x) (assembled s (sent ++ faNextRsrcBytes f) 0x0000#16 (faNextRsrcRegs f)) =
      .next (assembled s (sent ++ withCrc x) (if x = [] then 0x0000#16 else storedCrc x)
        { f with ph := .done, rem := 0#32 }) := by
  unfold faNextRsrcBytes faNextRsrcRegs
  split
  · next h0 =>
    obtain rfl := (eq_zero_iff_of_toNat_eq_length hlen).mp h0
    rw [withCrc_nil]
    rfl
  · next h0 =>
    have hx : x ≠ [] := h0 ∘ (eq_zero_iff_of_toNat_eq_length hlen).mpr
    rw [List.append_nil, if_neg hx, execAll_faStr_of_rsrc (by rw [assembled_st, hf]) rfl rfl hx
      ((toNat_setWidth_of_le_maxFork hr).trans hlen), assembled_assembled]
    rfl

/-- Fewer bytes than the data fork has. -/
theorem exists_execAll_faStr_data_ne_done (hless : x.length < f.dlen.toNat) (hd : f.dlen ≤ Config.maxFork)
    (sent : List Byte) (r : CrcWord) :
    ∃ t, execAll (faStr x) (assembled s sent r (faNextDataRegs f)) = .next t ∧ t.fa.ph ≠ .done := by
  have h0 : f.dlen ≠ 0#64 := by intro h; simp [h] at hless
  rw [faNextDataRegs, if_neg h0]
  exact exists_execAll_faStr_ne_done (by rw [assembled_st, hf]) (.inl rfl)
    (hless.trans_eq (toNat_setWidth_of_le_maxFork hd).symm)

/-- Fewer bytes than the resource fork has. -/
theorem exists_execAll_faStr_rsrc_ne_done (hless : x.length < f.rlen.toNat) (hr : f.rlen ≤ Config.maxFork)
    (sent : List Byte) (r : CrcWord) :
    ∃ t, execAll (faStr x) (assembled s sent r (faNextRsrcRegs f)) = .next t ∧ t.fa.ph ≠ .done := by
  have h0 : f.rlen ≠ 0#64 := by intro h; simp [h] at hless
  rw [faNextRsrcRegs, if_neg h0]
  exact exists_execAll_faStr_ne_done (by rw [assembled_st, hf]) (.inr rfl)
    (hless.trans_eq (toNat_setWidth_of_le_maxFork hr).symm)

end

/-! ### The obligations -/

/-- Settles O53: the header opens the data fork, the data opens the resource fork (`execAll_faStr_data`), which ends the
frame (`execAll_faStr_rsrc`); before that one of the two is open. -/
theorem frameIsAssembled : Obligations.FrameIsAssembled := by
  unfold Obligations.FrameIsAssembled
  intro s data rsrc hf hph hn hdlen hrlen hdmax hrmax
  have hchecked : s.fa.Checked := checked_of_toNat_le hn (hdlen.trans_le hdmax) (hrlen.trans_le hrmax)
  have ⟨_, hd, hr⟩ := hchecked
  have hheader := exec_faHdr_of_checked hf hph hchecked
  refine ⟨?_, fun k hk => ?_⟩
  · rw [execAll_cons hheader, faStr_append, execAll_append (execAll_faStr_data hf hdlen hd _),
      execAll_faStr_rsrc hf hrlen hr, hdlen, hrlen]
    rfl
  · rw [execAll_cons hheader]
    by_cases hdata : k < data.length
    · rw [List.take_append_of_le_length hdata.le]
      exact exists_execAll_faStr_data_ne_done hf (by rw [List.length_take]; omega) hd _ _
    · rw [List.take_append, List.take_of_length_le (not_lt.mp hdata), faStr_append,
        execAll_append (execAll_faStr_data hf hdlen hd _)]
      exact exists_execAll_faStr_rsrc_ne_done hf (by rw [List.length_take]; omega) hr _ _

/-- Settles O47: the two branches of `faNamePush`. -/
theorem faNpushStoresOrSaturates : Obligations.FaNpushStoresOrSaturates := by
  unfold Obligations.FaNpushStoresOrSaturates
  intro imm s hf hph
  refine ⟨congrArg (0x62#8 :: ·) (beBytes_one_toNat imm), s.setFa (faNamePush imm s.fa), issue_faConfigure hf hph _,
    congrArg s.setFa (faNamePush_frame imm s.fa), fun hlt => ?_, fun hge => ?_⟩
  · rw [State.setFa_fa, faNamePush_of_lt hlt]
    refine ⟨by bv_omega, fun k => ?_⟩
    simp only [Vector.get_eq_getElem, Vector.getElem_setIfInBounds, eq_comm]
  · rw [State.setFa_fa, faNamePush_of_le hge]
    exact ⟨rfl, rfl⟩

/-- Settles O50: the bytes and registers of `exec_faHdr_of_checked`, case by case of the empty forks. -/
theorem faHdrEmitsTheHeader : Obligations.FaHdrEmitsTheHeader := by
  unfold Obligations.FaHdrEmitsTheHeader
  intro s h out hf hph hn hd hr hh hout
  refine ⟨rfl, by rw [hh, length_headerBytes, length_take_name hn], ?_⟩
  rw [exec_faHdr_of_checked hf hph (checked_of_toNat_le hn hd hr), ← hh, hout, faNextDataBytes_eq_append,
    faNextDataRegs_eq, ← List.append_assoc]
  rfl

/-- Settles O51: the checks of `exec_faHdr`, in their order. -/
theorem faHdrReportsTheFirstSizeFault : Obligations.FaHdrReportsTheFirstSizeFault := by
  unfold Obligations.FaHdrReportsTheFirstSizeFault
  intro s code hf hph hcase
  rw [exec_faHdr hf hph]
  rcases hcase with ⟨hn, rfl⟩ | ⟨hn, hd, rfl⟩ | ⟨hn, hd, hr, rfl⟩
  · have hlong : Config.maxName < s.fa.nlen.toNat := hn
    rw [if_pos hlong]
    rfl
  · have hname : s.fa.nlen.toNat ≤ Config.maxName := hn
    have hlarge : Config.maxFork < s.fa.dlen := BitVec.lt_def.mpr hd
    rw [if_neg (not_lt.mpr hname), if_pos hlarge]
    rfl
  · have hname : s.fa.nlen.toNat ≤ Config.maxName := hn
    have hdata : s.fa.dlen ≤ Config.maxFork := BitVec.le_def.mpr hd
    have hlarge : Config.maxFork < s.fa.rlen := BitVec.lt_def.mpr hr
    rw [if_neg (not_lt.mpr hname), if_neg (BitVec.not_lt.mpr hdata), if_pos hlarge]
    rfl

/-- Settles O52: a byte that leaves the fork open, and the last byte of either fork. -/
theorem faPushEmitsAndCloses : Obligations.FaPushEmitsAndCloses := by
  unfold Obligations.FaPushEmitsAndCloses
  rintro imm s c hf rfl -
  refine ⟨congrArg (0x69#8 :: ·) (beBytes_one_toNat imm), fun hopen hmore => exec_faPush_of_more hf hopen hmore imm,
    fun hph hlast => exec_faPush_last_of_rsrc hf hph hlast imm, fun hph hlast h0 => ?_, fun hph hlast h0 => ?_⟩
  · rw [exec_faPush_last_of_data hf hph hlast, faNextRsrcBytes, if_pos h0, faNextRsrcRegs, if_pos h0]
    rfl
  · rw [exec_faPush_last_of_data hf hph hlast, faNextRsrcBytes, if_neg h0, faNextRsrcRegs, if_neg h0, List.append_nil]
    rfl

end Sys2Proof.Machine

/-! PROOFS. Exceptions, the faulted condition and completion (rules R240 to R252 of `60_exceptions.md`, R284 of
`70_reset_and_hazards.md`). All of it follows from two facts about every operation but `CORE.RST`: it is the issue of an
effect (`exec_issues`), and an effect that makes `ST.FAULT` become 1 is fault entry by a listed cause
(`Effect.faulted`). -/

namespace Sys2Proof.Machine

/-! ### Completion (R284) -/

theorem exists_issue_eq_next (s : State) (body : State → State) : ∃ t, issue s body = .next t := ⟨_, rfl⟩

theorem exists_exec_eq_next (i : Instr) (s : State) : ∃ t, exec i s = .next t := by
  by_cases hi : i = .coreRst
  · exact ⟨coreReset s, by rw [hi]; rfl⟩
  · obtain ⟨body, hbody, -⟩ := exec_issues hi s
    exact hbody ▸ exists_issue_eq_next s body

theorem exists_step_eq_next (s : State) : ∃ t, step s = .next t := by
  unfold step
  split
  · exact exists_exec_eq_next _ _
  · exact exists_issue_eq_next _ _
  · exact ⟨s, rfl⟩

theorem exists_execAll_eq_next (is : List Instr) (s : State) : ∃ t, execAll is s = .next t := by
  induction is generalizing s with
  | nil => exact ⟨s, rfl⟩
  | cons i is ih =>
    obtain ⟨u, hu⟩ := exists_exec_eq_next i s
    rw [execAll_cons hu]
    exact ih u

/-! ### The step while faulted (R251, R252) -/

/-- A reserved opcode at the front of the port, found by the decoder (R85). -/
theorem step_of_decode_reserved {s : State} {opcode : Byte} {rest : List Byte}
    (h : decode s.port = .reserved opcode rest) : step s = execReserved (s.setPort rest) := by
  rw [step, fetch, h]

section
variable {s : State} (hfault : s.st.fault = true)
include hfault

theorem step_faulted_of_decode {i : Instr} {rest : List Byte} (hi : i ≠ .coreRst) (h : decode s.port = .op i rest) :
    step s = .next (s.setPort rest) := by
  rw [step_of_decode h, exec_faulted (by exact hfault) hi]

theorem step_faulted_of_decode_reserved {opcode : Byte} {rest : List Byte}
    (h : decode s.port = .reserved opcode rest) : step s = .next (s.setPort rest) := by
  rw [step_of_decode_reserved h, execReserved, issue_faulted (by exact hfault)]

/-- A step from the faulted condition consumes at most a command and stays faulted, unless that command is
`CORE.RST`. -/
theorem step_faulted_cases {t : State} (h : step s = .next t) :
    (∃ port, t = s.setPort port) ∨ ∃ rest, decode s.port = .op .coreRst rest ∧ t = coreReset (s.setPort rest) := by
  cases hdecode : decode s.port with
  | op i rest =>
    by_cases hi : i = .coreRst
    · rw [step_of_decode hdecode, hi] at h
      cases h
      exact .inr ⟨rest, by rw [hi], rfl⟩
    · rw [step_faulted_of_decode hfault hi hdecode] at h
      cases h
      exact .inl ⟨rest, rfl⟩
  | reserved opcode rest =>
    rw [step_faulted_of_decode_reserved hfault hdecode] at h
    cases h
    exact .inl ⟨rest, rfl⟩
  | incomplete =>
    rw [step_of_incomplete hdecode] at h
    cases h
    exact .inl ⟨s.port, rfl⟩

end

/-! ### Fault entry by an operation (R241, R250) -/

/-- An effect that makes `ST.FAULT` become 1 is fault entry by a cause listed for its operation: in the state the
operation found, or, for `VF.RUN`, in that state with `CRC.R` written. -/
theorem Effect.faulted {s t : State} {i : Instr} (h : Effect s i t) (hrun : s.st.fault = false)
    (hfault : t.st.fault = true) :
    ∃ c ∈ mayRaise i, ∃ r, (i ≠ .vfRun → r = s.crc) ∧ t = raise c (s.setCrc r) := by
  have hkept : ∀ {u : State}, u.st.fault = s.st.fault → u.st.fault ≠ true := fun hu => by simp [hu, hrun]
  cases h with
  | fault hc => exact ⟨_, hc, s.crc, fun _ => rfl, rfl⟩
  | mismatch hc r => exact ⟨_, hc, r, fun hi => absurd rfl hi, rfl⟩
  | encode _ h => exact absurd hfault (hkept (congrArg StReg.fault h.st))
  | decode _ h => exact absurd hfault (hkept (congrArg StReg.fault h.st))
  | assemble _ bytes => exact absurd hfault (hkept (congrArg StReg.fault (deliverFa_st s bytes)))
  | none | ctl | crc | verifyCrc | configure | view | pkClear | upClear | rdClear | reClear | faClear =>
    exact absurd hfault (hkept rfl)

/-- The same for an operation: `CORE.RST` never faults, every other one has an effect. -/
theorem exec_raises {i : Instr} {s t : State} (h : exec i s = .next t) (hrun : s.st.fault = false)
    (hfault : t.st.fault = true) :
    ∃ c ∈ mayRaise i, ∃ r, (i ≠ .vfRun → r = s.crc) ∧ t = raise c (s.setCrc r) := by
  have hi : i ≠ .coreRst := by
    rintro rfl
    cases h
    cases hfault
  obtain ⟨hf, -⟩ | ⟨-, heffect⟩ := exec_effect hi h
  · rw [hrun] at hf
    cases hf
  · exact heffect.faulted hrun hfault

/-- Fault entry in `ST` as the host reads it: `VOK` kept, the cause in bits 4:1, `FAULT` set (R23, R250). -/
theorem stByte_raise (c : Cause) (s : State) :
    (raise c s).stByte = (s.stByte &&& 0x20#8) ||| (c.code.setWidth 8 <<< 1) ||| 0x01#8 := by
  simp only [State.stByte, raise_st]
  generalize s.st.fault = fault, s.st.cause = cause, s.st.vok = vok, c.code = code
  revert fault cause vok code
  decide

/-! ### The conditions of `IllegalOp` (R249) -/

theorem issue_whenLegal_of_illegal {s : State} (hf : s.st.fault = false) {legal : State → Bool} (h : legal s = false)
    (body : State → State) : (issue s fun s => whenLegal (legal s) s body) = .next (raise .illegalOp s) := by
  rw [issue_running hf, h, whenLegal_false]

theorem issue_faConfigure_of_not_cfg {s : State} (hf : s.st.fault = false) (h : s.fa.ph ≠ .cfg)
    (update : FaRegs → FaRegs) : (issue s fun s => faConfigure s update) = .next (raise .illegalOp s) :=
  issue_whenLegal_of_illegal hf (legal := fun s => s.fa.ph = .cfg) (decide_eq_false h) _

section
variable {s : State} (hf : s.st.fault = false)
include hf

theorem exec_faHdr_of_not_cfg (h : s.fa.ph ≠ .cfg) : exec .faHdr s = .next (raise .illegalOp s) := by
  rw [exec, execFaHdr, issue_running hf, if_pos h]

theorem exec_faPush_of_closed (h : s.fa.ph = .cfg ∨ s.fa.ph = .done) (b : Byte) :
    exec (.faPush b) s = .next (raise .illegalOp s) :=
  issue_whenLegal_of_illegal hf (legal := fun s => s.fa.ph = .data ∨ s.fa.ph = .rsrc)
    (decide_eq_false (by rcases h with h | h <;> simp [h])) _

theorem exec_vfRun_of_no_view (h : (s.params.hasFpv && s.v.valid) = false) :
    exec .vfRun s = .next (raise .illegalOp s) :=
  issue_whenLegal_of_illegal hf (legal := fun s => s.params.hasFpv && s.v.valid) h _

/-- An operation of the unit FPV where the unit is absent (R9). -/
theorem exec_of_fpv_absent (h : s.params.hasFpv = false) {i : Instr} (hi : i = .fpClr ∨ i = .fpParse ∨ i = .vfRun) :
    exec i s = .next (raise .illegalOp s) := by
  rcases hi with rfl | rfl | rfl
  · exact issue_whenLegal_of_illegal hf (legal := fun s => s.params.hasFpv) h _
  · exact issue_whenLegal_of_illegal hf (legal := fun s => s.params.hasFpv) h _
  · exact exec_vfRun_of_no_view hf (by rw [h, Bool.false_and])

end

/-! ### The obligations -/

/-- Settles O11: the issue of an operation, and of the reserved opcode, changes nothing while faulted. -/
theorem faultedCoreIgnoresAllButReset : Obligations.FaultedCoreIgnoresAllButReset := by
  unfold Obligations.FaultedCoreIgnoresAllButReset
  exact fun s hfault => ⟨fun i hi => exec_faulted hfault hi, fun i rest hi h => step_faulted_of_decode hfault hi h,
    fun opcode rest h => step_faulted_of_decode_reserved hfault h⟩

/-- Settles O12: of the steps possible while faulted only `CORE.RST` writes `ST`. -/
theorem onlyCoreRstLeavesTheFault : Obligations.OnlyCoreRstLeavesTheFault := by
  unfold Obligations.OnlyCoreRstLeavesTheFault
  intro s t h hfault hrun
  obtain ⟨port, rfl⟩ | ⟨rest, hdecode, rfl⟩ := step_faulted_cases hfault h
  · rw [State.setPort_st, hfault] at hrun
    cases hrun
  · exact ⟨rest, hdecode, rfl⟩

/-- Settles O15: fault entry leaves the code of a listed cause in `ST.CAUSE`. -/
theorem faultsComeOnlyFromTheListedOperations : Obligations.FaultsComeOnlyFromTheListedOperations := by
  unfold Obligations.FaultsComeOnlyFromTheListedOperations
  intro i s t h hrun hfault
  obtain ⟨c, hc, r, -, rfl⟩ := exec_raises h hrun hfault
  exact ⟨c, hc, by rw [raise_st]⟩

/-- Settles O16: a fault is fault entry, before any other effect but the `CRC.R` of `VF.RUN`. -/
theorem faultsArePrecise : Obligations.FaultsArePrecise := by
  unfold Obligations.FaultsArePrecise
  intro i s t h hrun hfault
  obtain ⟨c, -, r, hr, rfl⟩ := exec_raises h hrun hfault
  exact ⟨hr, rfl⟩

/-- Settles O49: one case for each condition; `raise_eq` writes out fault entry with the code of `IllegalOp`. -/
theorem illegalOpConditions : Obligations.IllegalOpConditions := by
  unfold Obligations.IllegalOpConditions
  intro i s hf hcond
  suffices hraise : exec i s = .next (raise .illegalOp s) by rw [hraise, raise_eq]; rfl
  rcases hcond with ⟨hph, hi⟩ | ⟨hph, b, rfl⟩ | ⟨hv, rfl⟩ | ⟨hfpv, hi⟩
  · rcases hi with rfl | ⟨_, rfl⟩ | ⟨_, rfl⟩ | ⟨_, rfl⟩ | ⟨_, rfl⟩ | ⟨_, rfl⟩ | ⟨_, rfl⟩ | rfl
    case inr.inr.inr.inr.inr.inr.inr => exact exec_faHdr_of_not_cfg hf hph
    all_goals exact issue_faConfigure_of_not_cfg hf hph _
  · exact exec_faPush_of_closed hf hph b
  · exact exec_vfRun_of_no_view hf (by rw [hv, Bool.and_false])
  · exact exec_of_fpv_absent hf hfpv hi

/-- Settles O17. -/
theorem faultEntryWritesStatusAndEmptiesStreams : Obligations.FaultEntryWritesStatusAndEmptiesStreams := by
  unfold Obligations.FaultEntryWritesStatusAndEmptiesStreams
  exact fun c s => ⟨stByte_raise c s, rfl⟩

/-- Settles O10: every operation but `CORE.RST` is an issue, which answers a next state. -/
theorem everyOperationCompletes : Obligations.EveryOperationCompletes := by
  unfold Obligations.EveryOperationCompletes
  exact ⟨exists_exec_eq_next, exists_step_eq_next⟩

end Sys2Proof.Machine

/-! PROOFS. The frame parser and verifier (rules R216 to R219 of `48_frame_parser_verify.md`). `FP.PARSE` is read in one
equation: the view is `parsedView` where the buffer holds what its header announces (`Announced`), and there is none
elsewhere. `VF.RUN` is read by its outcomes. A frame, with any values in its CRC fields (`sections`), then parses to its
own fields; and one changed byte changes the CRC of its section, because every CRC step is injective in the register
(`crcBit_injective`) and a byte step in the byte (`crcByte_right_injective`). -/

namespace Sys2Proof.Machine

/-! ### Ranges and fields of a buffer (R14, R65) -/

theorem slice_of_prefix {a b bytes : List Byte} {o e : Nat} (h : a ++ b <+: bytes) (ho : a.length = o)
    (he : o + b.length = e) : slice bytes o e = b := by
  obtain ⟨c, rfl⟩ := h
  rw [slice, ← he, ← ho, ← List.length_append, List.take_left, List.drop_left]

theorem fieldBE_of_prefix {a bytes : List Byte} {o n v : Nat} (h : a ++ beBytes n v <+: bytes) (ho : a.length = o)
    (hv : v < 256 ^ n) : fieldBE bytes o n = v := by
  rw [fieldBE, slice_of_prefix h ho (by rw [beBytes_length]), fromBE_beBytes, Nat.mod_eq_of_lt hv]

/-! ### `FP.PARSE` on the buffer (R216) -/

/-- A fork that is whole in the buffer: its CRC field may be absent. -/
def forkAt (bytes : List Byte) (p len : Nat) : ForkFields :=
  { off := p,
    crc := if p + len + 2 ≤ bytes.length then BitVec.ofNat 16 (fieldBE bytes (p + len) 2) else 0#16,
    crcp := decide (p + len + 2 ≤ bytes.length),
    next := if p + len + 2 ≤ bytes.length then p + len + 2 else bytes.length }

section
variable {bytes : List Byte} {p len : Nat}

theorem parseFork_of_le (h : p + len ≤ bytes.length) : parseFork bytes p len = some (forkAt bytes p len) := by
  rw [parseFork, if_neg (by omega), forkAt]
  by_cases hcrc : p + len + 2 ≤ bytes.length
  · have hleft : 2 ≤ bytes.length - (p + len) := by omega
    simp only [hleft, hcrc, if_true, decide_true]
  · have hleft : ¬2 ≤ bytes.length - (p + len) := by omega
    simp only [hleft, hcrc, if_false, decide_false]

theorem parseFork_of_lt (hp : p ≤ bytes.length) (h : bytes.length < p + len) : parseFork bytes p len = none :=
  if_pos (by omega)

theorem forkAt_next_le : (forkAt bytes p len).next ≤ bytes.length := by
  unfold forkAt
  dsimp only
  split
  · assumption
  · exact le_rfl

end

/-- The data fork of a buffer with name length `n`. -/
def dataFork (bytes : List Byte) (n : Byte) : ForkFields := forkAt bytes (n.toNat + 22) (fieldBE bytes (n.toNat + 12) 4)

/-- The resource fork of a buffer with name length `n`. -/
def rsrcFork (bytes : List Byte) (n : Byte) : ForkFields :=
  forkAt bytes (dataFork bytes n).next (fieldBE bytes (n.toNat + 16) 4)

/-- The view of a buffer with name length `n` that holds its header and both forks. -/
def parsedView (bytes : List Byte) (n : Byte) : ViewRegs :=
  { valid := true, nlen := n,
    type := BitVec.ofNat 32 (fieldBE bytes (n.toNat + 2) 4),
    auth := BitVec.ofNat 32 (fieldBE bytes (n.toNat + 6) 4),
    flags := BitVec.ofNat 16 (fieldBE bytes (n.toNat + 10) 2),
    dlen := BitVec.ofNat 32 (fieldBE bytes (n.toNat + 12) 4),
    rlen := BitVec.ofNat 32 (fieldBE bytes (n.toNat + 16) 4),
    hcrc := BitVec.ofNat 16 (fieldBE bytes (n.toNat + 20) 2),
    doff := (dataFork bytes n).off, roff := (rsrcFork bytes n).off,
    dcrc := (dataFork bytes n).crc, rcrc := (rsrcFork bytes n).crc,
    dcrcp := (dataFork bytes n).crcp, rcrcp := (rsrcFork bytes n).crcp }

/-- The buffer holds the header that its name length `n` announces and the forks that the header announces. -/
structure Announced (bytes : List Byte) (n : Byte) : Prop where
  header : n.toNat + 22 ≤ bytes.length
  data : n.toNat + 22 + fieldBE bytes (n.toNat + 12) 4 ≤ bytes.length
  rsrc : (dataFork bytes n).next + fieldBE bytes (n.toNat + 16) 4 ≤ bytes.length

section
variable {bytes tail : List Byte} {n : Byte} (hbytes : bytes = n :: tail)
include hbytes

theorem parseView_of_short (h : bytes.length < n.toNat + 22) : parseView bytes = none := by
  subst hbytes
  exact if_pos h

theorem parseView_of_header (h : n.toNat + 22 ≤ bytes.length) : parseView bytes = parseBody bytes n := by
  subst hbytes
  exact if_neg (not_lt.mpr h)

theorem parseView_of_announced (h : Announced bytes n) : parseView bytes = some (parsedView bytes n) := by
  have hdata : parseFork bytes (n.toNat + 22) (fieldBE bytes (n.toNat + 12) 4) = some (dataFork bytes n) :=
    parseFork_of_le h.data
  have hrsrc : parseFork bytes (dataFork bytes n).next (fieldBE bytes (n.toNat + 16) 4) = some (rsrcFork bytes n) :=
    parseFork_of_le h.rsrc
  rw [parseView_of_header hbytes h.header]
  simp only [parseBody, Nat.add_assoc, Nat.reduceAdd, hdata, hrsrc]
  rfl

theorem parseView_of_not_announced (h : ¬Announced bytes n) : parseView bytes = none := by
  rcases lt_or_ge bytes.length (n.toNat + 22) with hshort | hheader
  · exact parseView_of_short hbytes hshort
  rw [parseView_of_header hbytes hheader]
  simp only [parseBody, Nat.add_assoc, Nat.reduceAdd]
  rcases lt_or_ge bytes.length (n.toNat + 22 + fieldBE bytes (n.toNat + 12) 4) with hdata | hdata
  · rw [parseFork_of_lt hheader hdata]
  · have hrsrc : bytes.length < (dataFork bytes n).next + fieldBE bytes (n.toNat + 16) 4 :=
      not_le.mp fun hrsrc => h ⟨hheader, hdata, hrsrc⟩
    have hfork : parseFork bytes (n.toNat + 22) (fieldBE bytes (n.toNat + 12) 4) = some (dataFork bytes n) :=
      parseFork_of_le hdata
    have hnone : parseFork bytes (dataFork bytes n).next (fieldBE bytes (n.toNat + 16) 4) = none :=
      parseFork_of_lt forkAt_next_le hrsrc
    simp only [hfork, hnone]

end

/-! ### `VF.RUN` on the view (R218) -/

section
variable {bytes : List Byte} {e : CrcWord} {c : Cause} {s : State} {rest : State → State}

/-- A section that is absent or verifies leaves its CRC, if it was checked, and goes on. -/
theorem verifySection_of_verifies {present : Bool} (h : present = true → verifyCrc bytes e = true) :
    verifySection present bytes e c s rest = rest (s.setCrc (if present then e else s.crc)) := by
  cases present with
  | false => rfl
  | true =>
    have he : storedCrc bytes = e := (verifyCrc_iff.mp (h rfl)).symm
    rw [verifySection, if_pos rfl, if_neg (not_not_intro he), he, if_pos rfl]

theorem verifySection_of_mismatch (h : verifyCrc bytes e = false) :
    verifySection true bytes e c s rest = raise c (s.setCrc (storedCrc bytes)) := by
  have he : storedCrc bytes ≠ e := fun he => ne_true_of_eq_false h (verifyCrc_iff.mpr he.symm)
  rw [verifySection, if_pos rfl, if_pos he]

end

/-- The test by which `VF.RUN` finds a fork present. -/
theorem decide_zero_lt (len : BitVec 32) : decide (0#32 < len) = (len != 0#32) := by
  rw [Bool.eq_iff_iff, decide_eq_true_iff, bne_iff_ne]
  exact BitVec.pos_iff_ne_zero len

section
variable {s : State}

theorem verifyView_of_header_mismatch (hh : verifyCrc (viewHeader s.v s.raw) s.v.hcrc = false) :
    verifyView s = raise .crcHeader (s.setCrc (storedCrc (viewHeader s.v s.raw))) := by
  rw [verifyView, verifySection_of_mismatch hh]

variable (hh : verifyCrc (viewHeader s.v s.raw) s.v.hcrc = true)
include hh

theorem verifyView_of_data_mismatch (hlen : s.v.dlen ≠ 0#32) (hd : verifyCrc (viewData s.v s.raw) s.v.dcrc = false) :
    verifyView s = raise .crcData (s.setCrc (storedCrc (viewData s.v s.raw))) := by
  rw [verifyView, verifySection_of_verifies fun _ => hh]
  simp only [State.setCrc_v, State.setCrc_raw, decide_zero_lt]
  rw [bne_iff_ne.mpr hlen, verifySection_of_mismatch hd, State.setCrc_setCrc]

variable (hd : s.v.dlen ≠ 0#32 → verifyCrc (viewData s.v s.raw) s.v.dcrc = true)
include hd

theorem verifyView_of_rsrc_mismatch (hlen : s.v.rlen ≠ 0#32) (hr : verifyCrc (viewRsrc s.v s.raw) s.v.rcrc = false) :
    verifyView s = raise .crcResource (s.setCrc (storedCrc (viewRsrc s.v s.raw))) := by
  rw [verifyView, verifySection_of_verifies fun _ => hh]
  simp only [State.setCrc_v, State.setCrc_raw, decide_zero_lt]
  rw [verifySection_of_verifies fun h => hd (bne_iff_ne.mp h)]
  simp only [State.setCrc_v, State.setCrc_raw, State.setCrc_setCrc]
  rw [bne_iff_ne.mpr hlen, verifySection_of_mismatch hr, State.setCrc_setCrc]

theorem verifyView_of_verifies (hr : s.v.rlen ≠ 0#32 → verifyCrc (viewRsrc s.v s.raw) s.v.rcrc = true) :
    verifyView s =
      s.setCrc (if s.v.rlen ≠ 0#32 then s.v.rcrc else if s.v.dlen ≠ 0#32 then s.v.dcrc else s.v.hcrc) := by
  rw [verifyView, verifySection_of_verifies fun _ => hh]
  simp only [State.setCrc_v, State.setCrc_raw, decide_zero_lt]
  rw [verifySection_of_verifies fun h => hd (bne_iff_ne.mp h)]
  simp only [State.setCrc_v, State.setCrc_raw, State.setCrc_setCrc]
  rw [verifySection_of_verifies fun h => hr (bne_iff_ne.mp h)]
  simp only [State.setCrc_crc, State.setCrc_setCrc, bne_iff_ne, if_true, id]

end

/-! ### The operations, issued without a fault where the unit is present (R216, R218) -/

section
variable {s : State} (hf : s.st.fault = false) (hfpv : s.params.hasFpv = true)
include hf hfpv

theorem exec_fpParse_of_some {v : ViewRegs} (h : parseView s.raw = some v) : exec .fpParse s = .next (s.setV v) := by
  rw [exec, execFpParse, issue_running hf, hfpv, whenLegal_true, h]

theorem exec_fpParse_of_none (h : parseView s.raw = none) : exec .fpParse s = .next (raise .badFormat s) := by
  rw [exec, execFpParse, issue_running hf, hfpv, whenLegal_true, h]

theorem exec_vfRun (hv : s.v.valid = true) : exec .vfRun s = .next (verifyView s) := by
  rw [exec, execVfRun, issue_running hf, hfpv, hv, Bool.and_self, whenLegal_true]

theorem exec_vfRun_setV {v : ViewRegs} (h : parseView s.raw = some v) :
    exec .vfRun (s.setV v) = .next (verifyView (s.setV v)) :=
  exec_vfRun (s := s.setV v) hf hfpv (valid_of_parseView h)

theorem execAll_fpParse_vfRun_of_some {v : ViewRegs} (h : parseView s.raw = some v) :
    execAll [.fpParse, .vfRun] s = .next (verifyView (s.setV v)) := by
  rw [execAll_cons (exec_fpParse_of_some hf hfpv h), execAll_cons (exec_vfRun_setV hf hfpv h), execAll_nil]

/-- After `BadFormat` the verification is not run (R251). -/
theorem execAll_fpParse_vfRun_of_none (h : parseView s.raw = none) :
    execAll [.fpParse, .vfRun] s = .next (raise .badFormat s) := by
  rw [execAll_cons (exec_fpParse_of_none hf hfpv h), execAll_cons (exec_faulted rfl (by decide)), execAll_nil]

end

/-! ### The fields of a header in the buffer (R191, R216) -/

section
variable {name bytes : List Byte} {type auth : BitVec 32} {flags : BitVec 16} {dlen rlen : Nat}
variable (h : headerBytes name type auth flags dlen rlen <+: bytes)
include h

theorem slice_name_of_headerBytes : slice bytes 1 (1 + name.length) = name :=
  slice_of_prefix (a := [BitVec.ofNat 8 name.length]) (.trans (by simp [headerBytes]) h) rfl rfl

theorem fieldBE_type_of_headerBytes : fieldBE bytes (name.length + 2) 4 = type.toNat :=
  fieldBE_of_prefix (a := [BitVec.ofNat 8 name.length] ++ name ++ [0x00#8]) (.trans (by simp [headerBytes]) h)
    (by simp) type.isLt

theorem fieldBE_auth_of_headerBytes : fieldBE bytes (name.length + 6) 4 = auth.toNat :=
  fieldBE_of_prefix (a := [BitVec.ofNat 8 name.length] ++ name ++ [0x00#8] ++ beBytes 4 type.toNat)
    (.trans (by simp [headerBytes]) h) (by simp) auth.isLt

theorem fieldBE_flags_of_headerBytes : fieldBE bytes (name.length + 10) 2 = flags.toNat :=
  fieldBE_of_prefix
    (a := [BitVec.ofNat 8 name.length] ++ name ++ [0x00#8] ++ beBytes 4 type.toNat ++ beBytes 4 auth.toNat)
    (.trans (by simp [headerBytes]) h) (by simp) flags.isLt

theorem fieldBE_dlen_of_headerBytes (hd : dlen ≤ 0xFFFFFFFF) : fieldBE bytes (name.length + 12) 4 = dlen :=
  fieldBE_of_prefix
    (a := [BitVec.ofNat 8 name.length] ++ name ++ [0x00#8] ++ beBytes 4 type.toNat ++ beBytes 4 auth.toNat ++
      beBytes 2 flags.toNat)
    (.trans (by simp [headerBytes]) h) (by simp) (by omega)

theorem fieldBE_rlen_of_headerBytes (hr : rlen ≤ 0xFFFFFFFF) : fieldBE bytes (name.length + 16) 4 = rlen :=
  fieldBE_of_prefix
    (a := [BitVec.ofNat 8 name.length] ++ name ++ [0x00#8] ++ beBytes 4 type.toNat ++ beBytes 4 auth.toNat ++
      beBytes 2 flags.toNat ++ beBytes 4 dlen)
    (.trans (by simp [headerBytes]) h) (by simp) (by omega)

end

theorem fieldBE_crcBytes_of_prefix {a bytes : List Byte} {o : Nat} {r : CrcWord} (h : a ++ crcBytes r <+: bytes)
    (ho : a.length = o) : BitVec.ofNat 16 (fieldBE bytes o 2) = r := by
  rw [fieldBE_of_prefix h ho r.isLt, BitVec.ofNat_toNat, BitVec.setWidth_eq]

/-! ### A frame in the buffer (R191, R216) -/

/-- The sections of a frame with any values in the three CRC fields. -/
def sections (name : List Byte) (type auth : BitVec 32) (flags : BitVec 16) (data rsrc : List Byte)
    (hc dc rc : CrcWord) : List Byte :=
  headerBytes name type auth flags data.length rsrc.length ++ crcBytes hc ++ data ++ crcBytes dc ++ rsrc ++ crcBytes rc

/-- The view of those sections. -/
def sectionsView (name : List Byte) (type auth : BitVec 32) (flags : BitVec 16) (data rsrc : List Byte)
    (hc dc rc : CrcWord) : ViewRegs :=
  { valid := true, nlen := BitVec.ofNat 8 name.length, type := type, auth := auth, flags := flags,
    dlen := BitVec.ofNat 32 data.length, rlen := BitVec.ofNat 32 rsrc.length, hcrc := hc,
    doff := name.length + 22, roff := name.length + 22 + data.length + 2,
    dcrc := dc, rcrc := rc, dcrcp := true, rcrcp := true }

section
variable (name data rsrc : List Byte) (type auth : BitVec 32) (flags : BitVec 16) (hc dc rc : CrcWord)

theorem frame_eq_sections :
    frame name type auth flags data rsrc =
      sections name type auth flags data rsrc
        (storedCrc (headerBytes name type auth flags data.length rsrc.length)) (storedCrc data) (storedCrc rsrc) := by
  simp only [frame, withCrc, sections, crcBytes, List.append_assoc]

theorem length_sections :
    (sections name type auth flags data rsrc hc dc rc).length = name.length + data.length + rsrc.length + 26 := by
  simp only [sections, crcBytes, List.length_append, length_headerBytes, beBytes_length]
  omega

end

theorem toNat_ofNat_length {x : List Byte} {w : Nat} (h : x.length < 2 ^ w) :
    (BitVec.ofNat w x.length).toNat = x.length :=
  Nat.mod_eq_of_lt h

section
variable {name data rsrc extra raw : List Byte} {type auth : BitVec 32} {flags : BitVec 16} {hc dc rc : CrcWord}
variable (hraw : raw = sections name type auth flags data rsrc hc dc rc ++ extra)
include hraw

theorem headerBytes_prefix_sections : headerBytes name type auth flags data.length rsrc.length <+: raw := by
  simp [hraw, sections]

theorem slice_data_sections : slice raw (name.length + 22) (name.length + 22 + data.length) = data :=
  slice_of_prefix (a := headerBytes name type auth flags data.length rsrc.length ++ crcBytes hc)
    (by simp [hraw, sections]) (by simp [length_headerBytes, crcBytes]) rfl

theorem slice_rsrc_sections :
    slice raw (name.length + 22 + data.length + 2) (name.length + 22 + data.length + 2 + rsrc.length) = rsrc :=
  slice_of_prefix
    (a := headerBytes name type auth flags data.length rsrc.length ++ crcBytes hc ++ data ++ crcBytes dc)
    (by simp [hraw, sections]) (by simp [length_headerBytes, crcBytes]; omega) rfl

theorem hcrc_sections : BitVec.ofNat 16 (fieldBE raw (name.length + 20) 2) = hc :=
  fieldBE_crcBytes_of_prefix (a := headerBytes name type auth flags data.length rsrc.length)
    (by simp [hraw, sections]) (length_headerBytes ..)

theorem dcrc_sections : BitVec.ofNat 16 (fieldBE raw (name.length + 22 + data.length) 2) = dc :=
  fieldBE_crcBytes_of_prefix
    (a := headerBytes name type auth flags data.length rsrc.length ++ crcBytes hc ++ data)
    (by simp [hraw, sections]) (by simp [length_headerBytes, crcBytes]; omega)

theorem rcrc_sections :
    BitVec.ofNat 16 (fieldBE raw (name.length + 22 + data.length + 2 + rsrc.length) 2) = rc :=
  fieldBE_crcBytes_of_prefix
    (a := headerBytes name type auth flags data.length rsrc.length ++ crcBytes hc ++ data ++ crcBytes dc ++ rsrc)
    (by simp [hraw, sections]) (by simp [length_headerBytes, crcBytes]; omega)

theorem viewName_sections (hname : name.length ≤ 255) :
    viewName (sectionsView name type auth flags data rsrc hc dc rc) raw = name := by
  rw [viewName, sectionsView, toNat_ofNat_length (by omega)]
  exact slice_name_of_headerBytes (headerBytes_prefix_sections hraw)

theorem viewHeader_sections (hname : name.length ≤ 255) :
    viewHeader (sectionsView name type auth flags data rsrc hc dc rc) raw =
      headerBytes name type auth flags data.length rsrc.length := by
  rw [viewHeader, sectionsView, toNat_ofNat_length (by omega)]
  exact slice_of_prefix (a := []) (headerBytes_prefix_sections hraw) rfl (by rw [length_headerBytes, Nat.zero_add])

theorem viewData_sections (hdata : data.length ≤ 0xFFFFFFFF) :
    viewData (sectionsView name type auth flags data rsrc hc dc rc) raw = data := by
  rw [viewData, sectionsView, toNat_ofNat_length (by omega)]
  exact slice_data_sections hraw

theorem viewRsrc_sections (hrsrc : rsrc.length ≤ 0xFFFFFFFF) :
    viewRsrc (sectionsView name type auth flags data rsrc hc dc rc) raw = rsrc := by
  rw [viewRsrc, sectionsView, toNat_ofNat_length (by omega)]
  exact slice_rsrc_sections hraw

/-- Sections of legal sizes, whatever follows them, parse to their own fields (R216). -/
theorem parseView_sections (hname : name.length ≤ 255) (hdata : data.length ≤ 0xFFFFFFFF)
    (hrsrc : rsrc.length ≤ 0xFFFFFFFF) :
    parseView raw = some (sectionsView name type auth flags data rsrc hc dc rc) := by
  have hn : (BitVec.ofNat 8 name.length).toNat = name.length := toNat_ofNat_length (by omega)
  have hheader := headerBytes_prefix_sections hraw
  have hdlen := fieldBE_dlen_of_headerBytes hheader hdata
  have hrlen := fieldBE_rlen_of_headerBytes hheader hrsrc
  have hlen : raw.length = name.length + data.length + rsrc.length + 26 + extra.length := by
    rw [hraw, List.length_append, length_sections]
  have hdfork : dataFork raw (BitVec.ofNat 8 name.length) =
      { off := name.length + 22, crc := dc, crcp := true, next := name.length + 22 + data.length + 2 } := by
    have hcrc : name.length + 22 + data.length + 2 ≤ raw.length := by omega
    rw [dataFork, hn, hdlen, forkAt, if_pos hcrc, if_pos hcrc, dcrc_sections hraw, decide_eq_true hcrc]
  have hrfork : rsrcFork raw (BitVec.ofNat 8 name.length) =
      { off := name.length + 22 + data.length + 2, crc := rc, crcp := true,
        next := name.length + 22 + data.length + 2 + rsrc.length + 2 } := by
    have hcrc : name.length + 22 + data.length + 2 + rsrc.length + 2 ≤ raw.length := by omega
    rw [rsrcFork, hn, hrlen, hdfork, forkAt, if_pos hcrc, if_pos hcrc, rcrc_sections hraw, decide_eq_true hcrc]
  have hannounced : Announced raw (BitVec.ofNat 8 name.length) :=
    { header := by rw [hn]; omega
      data := by rw [hn, hdlen]; omega
      rsrc := by rw [hn, hrlen, hdfork]; dsimp only; omega }
  obtain ⟨tail, htail⟩ : ∃ tail, raw = BitVec.ofNat 8 name.length :: tail := ⟨_, hraw⟩
  rw [parseView_of_announced htail hannounced, parsedView, hdfork, hrfork, hn, hdlen, hrlen,
    fieldBE_type_of_headerBytes hheader, fieldBE_auth_of_headerBytes hheader, fieldBE_flags_of_headerBytes hheader,
    hcrc_sections hraw]
  simp only [BitVec.ofNat_toNat, BitVec.setWidth_eq]
  rfl

end

theorem verifyCrc_storedCrc (m : List Byte) : verifyCrc m (storedCrc m) = true := verifyCrc_iff.mpr rfl

/-- A fork that is not empty is present in the view. -/
theorem ofNat_length_ne_zero {x : List Byte} (hx : x ≠ []) (h : x.length ≤ 0xFFFFFFFF) :
    BitVec.ofNat 32 x.length ≠ 0#32 := by
  have hpos := List.length_pos_iff.mpr hx
  bv_omega

/-! ### `FP.PARSE` and `VF.RUN` on sections (R216, R218) -/

section
variable {s : State} {name data rsrc extra : List Byte} {type auth : BitVec 32} {flags : BitVec 16} {dc rc : CrcWord}
variable (hf : s.st.fault = false) (hfpv : s.params.hasFpv = true) (hname : name.length ≤ 255)
variable (hdata : data.length ≤ 0xFFFFFFFF) (hrsrc : rsrc.length ≤ 0xFFFFFFFF)
variable (hraw : s.raw = sections name type auth flags data rsrc
  (storedCrc (headerBytes name type auth flags data.length rsrc.length)) dc rc ++ extra)
include hf hfpv hname hdata hrsrc hraw

/-- The header verifies, so the data fork is the first section to be reported. -/
theorem execAll_sections_of_data_mismatch (hne : data ≠ []) (hd : verifyCrc data dc = false) :
    ∃ u, execAll [.fpParse, .vfRun] s = .next (raise .crcData u) := by
  rw [execAll_fpParse_vfRun_of_some hf hfpv (parseView_sections hraw hname hdata hrsrc), verifyView_of_data_mismatch]
  · exact ⟨_, rfl⟩
  · rw [State.setV_v, State.setV_raw, viewHeader_sections hraw hname]
    exact verifyCrc_storedCrc _
  · exact ofNat_length_ne_zero hne hdata
  · rw [State.setV_v, State.setV_raw, viewData_sections hraw hdata]
    exact hd

/-- Header and data fork verify, so the resource fork is the first section to be reported. -/
theorem execAll_sections_of_rsrc_mismatch (hd : dc = storedCrc data) (hne : rsrc ≠ [])
    (hr : verifyCrc rsrc rc = false) : ∃ u, execAll [.fpParse, .vfRun] s = .next (raise .crcResource u) := by
  rw [execAll_fpParse_vfRun_of_some hf hfpv (parseView_sections hraw hname hdata hrsrc), verifyView_of_rsrc_mismatch]
  · exact ⟨_, rfl⟩
  · rw [State.setV_v, State.setV_raw, viewHeader_sections hraw hname]
    exact verifyCrc_storedCrc _
  · rw [State.setV_v, State.setV_raw, viewData_sections hraw hdata]
    exact fun _ => verifyCrc_iff.mpr hd
  · exact ofNat_length_ne_zero hne hrsrc
  · rw [State.setV_v, State.setV_raw, viewRsrc_sections hraw hrsrc]
    exact hr

/-- Every section verifies: only `CRC.R` changes. -/
theorem exec_vfRun_sections (hd : dc = storedCrc data) (hr : rc = storedCrc rsrc) :
    ∃ r, exec .vfRun (s.setV (sectionsView name type auth flags data rsrc
        (storedCrc (headerBytes name type auth flags data.length rsrc.length)) dc rc)) =
      .next ((s.setV (sectionsView name type auth flags data rsrc
        (storedCrc (headerBytes name type auth flags data.length rsrc.length)) dc rc)).setCrc r) := by
  rw [exec_vfRun_setV hf hfpv (parseView_sections hraw hname hdata hrsrc), verifyView_of_verifies]
  · exact ⟨_, rfl⟩
  · rw [State.setV_v, State.setV_raw, viewHeader_sections hraw hname]
    exact verifyCrc_storedCrc _
  · rw [State.setV_v, State.setV_raw, viewData_sections hraw hdata]
    exact fun _ => verifyCrc_iff.mpr hd
  · rw [State.setV_v, State.setV_raw, viewRsrc_sections hraw hrsrc]
    exact fun _ => verifyCrc_iff.mpr hr

end

/-! ### One changed byte (R130, R219) -/

/-- The register after a zero bit tells whether it was zero before: the polynomial's bit 0 is 1. -/
theorem eq_zero_of_crcBit_false {r : CrcWord} (h : crcBit r false = 0#16) : r = 0#16 := by
  rw [crcBit_eq] at h
  cases hmsb : r.getLsbD 15 with
  | true =>
    have hlow := congrArg (BitVec.getLsbD · 0) h
    simp [hmsb, Config.crcPoly] at hlow
  | false =>
    rw [hmsb, if_neg Bool.false_ne_true, BitVec.xor_zero] at h
    apply BitVec.eq_of_getLsbD_eq
    intro i hi
    rcases Nat.lt_or_ge i 15 with hlt | hge
    · have hbit : (r.shiftConcat false).getLsbD (i + 1) = false := by rw [h, BitVec.getLsbD_zero]
      rw [BitVec.getLsbD_shiftConcat, decide_eq_true (Nat.succ_lt_succ hlt), Bool.true_and,
        if_neg (Nat.succ_ne_zero i), Nat.add_sub_cancel] at hbit
      rw [hbit, BitVec.getLsbD_zero]
    · obtain rfl : i = 15 := by omega
      simpa using hmsb

theorem crcBit_injective (b : Bool) : Function.Injective (crcBit · b) := by
  intro r q (h : crcBit r b = crcBit q b)
  have hxor : crcBit (r ^^^ q) (b ^^ b) = 0#16 := by rw [crcBit_xor, h, BitVec.xor_self]
  rw [Bool.xor_self] at hxor
  exact BitVec.xor_eq_zero_iff.mp (eq_zero_of_crcBit_false hxor)

/-- Steps that are injective in the state fold to a function that is. -/
theorem foldl_injective_of_step {σ β : Type} {f : σ → β → σ} (hf : ∀ b, Function.Injective (f · b)) (l : List β) :
    Function.Injective (l.foldl f) := by
  induction l with
  | nil => exact Function.injective_id
  | cons b l ih => exact ih.comp (hf b)

theorem crcByte_left_injective (v : Byte) : Function.Injective (crcByte · v) :=
  foldl_injective_of_step crcBit_injective (bitsMSB v)

theorem crcByte_right_injective (r : CrcWord) : Function.Injective (crcByte r) := by
  intro a b h
  have hxor : crcByte 0x0000#16 (a ^^^ b) = 0x0000#16 := by
    rw [← BitVec.xor_self (x := r), crcByte_xor, h, BitVec.xor_self, BitVec.xor_self]
  have hnat := toNat_crcByte (r := 0x0000#16) (by decide) (a ^^^ b)
  rw [hxor] at hnat
  exact BitVec.xor_eq_zero_iff.mp (BitVec.eq_of_toNat_eq (by simpa using hnat.symm))

/-- A message with one byte changed leaves another value in the register. -/
theorem foldl_crcByte_set_ne {m : List Byte} {k : Nat} {b b' : Byte} (hb : m[k]? = some b) (hne : b' ≠ b)
    (r : CrcWord) : (m.set k b').foldl crcByte r ≠ m.foldl crcByte r := by
  induction m generalizing k r with
  | nil => simp at hb
  | cons a m ih =>
    cases k with
    | zero =>
      obtain rfl : a = b := by simpa using hb
      intro h
      exact hne (crcByte_right_injective r (foldl_injective_of_step crcByte_left_injective m h))
    | succ k => exact ih (by simpa using hb) (crcByte r a)

theorem verifyCrc_set_eq_false {m : List Byte} {k : Nat} {b b' : Byte} (hb : m[k]? = some b) (hne : b' ≠ b) :
    verifyCrc (m.set k b') (storedCrc m) = false := by
  rw [← Bool.not_eq_true, verifyCrc_iff]
  intro h
  have hcrc : crc16 m = crc16 (m.set k b') := crcByte_left_injective 0x00#8 (crcByte_left_injective 0x00#8 h)
  exact foldl_crcByte_set_ne hb hne _ hcrc.symm

/-- A flipped bit changes its byte. -/
theorem xor_bit_ne {j : Nat} (hj : j < 8) (b : Byte) : b ^^^ (1#8 <<< j) ≠ b := by
  have hbit : ∀ j < 8, 1#8 <<< j ≠ 0#8 := by decide
  intro h
  exact hbit j hj ((BitVec.xor_right_inj b).mp (h.trans BitVec.xor_zero.symm))

section
variable {a b c : List Byte} {k : Nat} (hlo : a.length ≤ k) (hhi : k < a.length + b.length)
include hlo hhi

theorem set_middle (x : Byte) : (a ++ (b ++ c)).set k x = a ++ (b.set (k - a.length) x ++ c) := by
  rw [List.set_append_right _ _ hlo, List.set_append_left _ _ (by omega)]

theorem getElem?_middle : (a ++ (b ++ c))[k]? = b[k - a.length]? := by
  rw [List.getElem?_append_right hlo, List.getElem?_append_left (by omega)]

end

/-! ### A frame with one changed byte in the buffer (R219) -/

section
variable {name data rsrc : List Byte} {type auth : BitVec 32} {flags : BitVec 16} {hc dc rc : CrcWord} {k : Nat}
variable {b b' : Byte}

theorem sections_set_data (hlo : name.length + 22 ≤ k) (hhi : k < name.length + 22 + data.length) :
    (sections name type auth flags data rsrc hc dc rc).set k b' =
        sections name type auth flags (data.set (k - (name.length + 22)) b') rsrc hc dc rc ∧
      (sections name type auth flags data rsrc hc dc rc)[k]? = data[k - (name.length + 22)]? := by
  have hlen : (headerBytes name type auth flags data.length rsrc.length ++ crcBytes hc).length = name.length + 22 := by
    simp [length_headerBytes, crcBytes]
  have hparts : sections name type auth flags data rsrc hc dc rc =
      headerBytes name type auth flags data.length rsrc.length ++ crcBytes hc ++
        (data ++ (crcBytes dc ++ rsrc ++ crcBytes rc)) := by
    simp only [sections, List.append_assoc]
  rw [hparts, set_middle (by omega) (by omega), getElem?_middle (by omega) (by omega), hlen]
  exact ⟨by simp only [sections, List.length_set, List.append_assoc], rfl⟩

theorem sections_set_rsrc (hlo : name.length + 24 + data.length ≤ k)
    (hhi : k < name.length + 24 + data.length + rsrc.length) :
    (sections name type auth flags data rsrc hc dc rc).set k b' =
        sections name type auth flags data (rsrc.set (k - (name.length + 24 + data.length)) b') hc dc rc ∧
      (sections name type auth flags data rsrc hc dc rc)[k]? = rsrc[k - (name.length + 24 + data.length)]? := by
  have hlen : (headerBytes name type auth flags data.length rsrc.length ++ crcBytes hc ++ data ++ crcBytes dc).length =
      name.length + 24 + data.length := by
    simp only [List.length_append, length_headerBytes, crcBytes, beBytes_length]
    omega
  have hparts : sections name type auth flags data rsrc hc dc rc =
      headerBytes name type auth flags data.length rsrc.length ++ crcBytes hc ++ data ++ crcBytes dc ++
        (rsrc ++ crcBytes rc) := by
    simp only [sections, List.append_assoc]
  rw [hparts, set_middle (by omega) (by omega), getElem?_middle (by omega) (by omega), hlen]
  exact ⟨by simp only [sections, List.length_set, List.append_assoc], rfl⟩

end

/-- A header with one byte changed after its first one still begins with its name length. -/
theorem headerBytes_set {name : List Byte} {type auth : BitVec 32} {flags : BitVec 16} {dlen rlen k : Nat}
    (hlo : 1 ≤ k) (b' : Byte) :
    ∃ tail, (headerBytes name type auth flags dlen rlen).set k b' = BitVec.ofNat 8 name.length :: tail := by
  obtain ⟨k, rfl⟩ := Nat.exists_eq_add_of_le' hlo
  exact ⟨_, rfl⟩

section
variable {name data rsrc : List Byte} {type auth : BitVec 32} {flags : BitVec 16} {s : State} {k : Nat} {b b' : Byte}
variable (hf : s.st.fault = false) (hfpv : s.params.hasFpv = true) (hname : name.length ≤ 255)
variable (hb : (frame name type auth flags data rsrc)[k]? = some b) (hne : b' ≠ b)
variable (hraw : s.raw = (frame name type auth flags data rsrc).set k b')
include hf hfpv hname hb hne hraw

/-- The header's first byte and its CRC field are untouched, so the buffer either has no view, or the view checks the
changed header against the CRC of the unchanged one. -/
theorem execAll_of_header_changed (hlo : 1 ≤ k) (hhi : k < name.length + 20) :
    ∃ c u, (c = .badFormat ∨ c = .crcHeader) ∧ execAll [.fpParse, .vfRun] s = .next (raise c u) := by
  have hlen := length_headerBytes name type auth flags data.length rsrc.length
  have hn : (BitVec.ofNat 8 name.length).toNat = name.length := toNat_ofNat_length (by omega)
  have hparts : frame name type auth flags data rsrc = headerBytes name type auth flags data.length rsrc.length ++
      (crcBytes (storedCrc (headerBytes name type auth flags data.length rsrc.length)) ++
        (withCrc data ++ withCrc rsrc)) := by
    simp only [frame, withCrc, crcBytes, List.append_assoc]
  rw [hparts, List.getElem?_append_left (by omega)] at hb
  rw [hparts, List.set_append_left _ _ (by omega)] at hraw
  obtain ⟨tail, htail⟩ : ∃ tail, s.raw = BitVec.ofNat 8 name.length :: tail := by
    obtain ⟨tail, htail⟩ := headerBytes_set hlo b'
    rw [hraw, htail]
    exact ⟨_, rfl⟩
  by_cases hannounced : Announced s.raw (BitVec.ofNat 8 name.length)
  · have hview := parseView_of_announced htail hannounced
    rw [execAll_fpParse_vfRun_of_some hf hfpv hview, verifyView_of_header_mismatch]
    · exact ⟨_, _, .inr rfl, rfl⟩
    · have hheader : viewHeader (parsedView s.raw (BitVec.ofNat 8 name.length)) s.raw =
          (headerBytes name type auth flags data.length rsrc.length).set k b' := by
        rw [viewHeader, parsedView, hn]
        exact slice_of_prefix (a := []) (by simp [hraw]) rfl (by rw [List.length_set, hlen, Nat.zero_add])
      have hhcrc : (parsedView s.raw (BitVec.ofNat 8 name.length)).hcrc =
          storedCrc (headerBytes name type auth flags data.length rsrc.length) := by
        rw [parsedView, hn]
        exact fieldBE_crcBytes_of_prefix (by rw [hraw, ← List.append_assoc]; exact List.prefix_append _ _)
          (by rw [List.length_set, hlen])
      rw [State.setV_v, State.setV_raw, hheader, hhcrc]
      exact verifyCrc_set_eq_false hb hne
  · exact ⟨_, _, .inl rfl, execAll_fpParse_vfRun_of_none hf hfpv (parseView_of_not_announced htail hannounced)⟩

variable (hdata : data.length ≤ 0xFFFFFFFF) (hrsrc : rsrc.length ≤ 0xFFFFFFFF)
include hdata hrsrc

theorem execAll_of_data_changed (hlo : name.length + 22 ≤ k) (hhi : k < name.length + 22 + data.length) :
    ∃ u, execAll [.fpParse, .vfRun] s = .next (raise .crcData u) := by
  obtain ⟨hset, hget⟩ := sections_set_data (rsrc := rsrc) (type := type) (auth := auth) (flags := flags)
    (hc := storedCrc (headerBytes name type auth flags data.length rsrc.length)) (dc := storedCrc data)
    (rc := storedCrc rsrc) (b' := b') hlo hhi
  rw [frame_eq_sections, hget] at hb
  have hlen : (data.set (k - (name.length + 22)) b').length = data.length := List.length_set
  rw [frame_eq_sections, hset, ← List.append_nil (sections ..), ← hlen] at hraw
  exact execAll_sections_of_data_mismatch hf hfpv hname (hlen.trans_le hdata) hrsrc hraw
    (List.ne_nil_of_length_pos (by omega)) (verifyCrc_set_eq_false hb hne)

theorem execAll_of_rsrc_changed (hlo : name.length + 24 + data.length ≤ k)
    (hhi : k < name.length + 24 + data.length + rsrc.length) :
    ∃ u, execAll [.fpParse, .vfRun] s = .next (raise .crcResource u) := by
  obtain ⟨hset, hget⟩ := sections_set_rsrc (type := type) (auth := auth) (flags := flags)
    (hc := storedCrc (headerBytes name type auth flags data.length rsrc.length)) (dc := storedCrc data)
    (rc := storedCrc rsrc) (b' := b') hlo hhi
  rw [frame_eq_sections, hget] at hb
  have hlen : (rsrc.set (k - (name.length + 24 + data.length)) b').length = rsrc.length := List.length_set
  rw [frame_eq_sections, hset, ← List.append_nil (sections ..), ← hlen] at hraw
  exact execAll_sections_of_rsrc_mismatch hf hfpv hname hdata (hlen.trans_le hrsrc) hraw rfl
    (List.ne_nil_of_length_pos (by omega)) (verifyCrc_set_eq_false hb hne)

end

/-! ### The obligations -/

/-- Settles O58: a frame is sections with their stored CRCs, which parse to their own fields and verify. -/
theorem parseInvertsTheFrame : Obligations.ParseInvertsTheFrame := by
  unfold Obligations.ParseInvertsTheFrame
  intro name data rsrc extra type auth flags s hf hfpv hname hdata hrsrc hraw
  rw [frame_eq_sections] at hraw
  obtain ⟨r, hverify⟩ := exec_vfRun_sections hf hfpv hname hdata hrsrc hraw rfl rfl
  have hparse := exec_fpParse_of_some hf hfpv (parseView_sections hraw hname hdata hrsrc)
  refine ⟨_, (execAll_cons hparse _).trans (execAll_cons hverify _), rfl, rfl, viewName_sections hraw hname, rfl, rfl,
    rfl, toNat_ofNat_length (by omega), viewData_sections hraw hdata, toNat_ofNat_length (by omega),
    viewRsrc_sections hraw hrsrc, rfl, rfl⟩

/-- Settles O59: the changed section is the first that does not verify, or its header no longer fits the buffer. -/
theorem singleBitFlipsAreDetected : Obligations.SingleBitFlipsAreDetected := by
  unfold Obligations.SingleBitFlipsAreDetected
  intro name data rsrc type auth flags s k j b hf hfpv hname hdata hrsrc hb hj hraw
  have hne := xor_bit_ne hj b
  obtain ⟨t, ht⟩ := exists_execAll_eq_next [.fpParse, .vfRun] s
  refine ⟨t, ht, fun ⟨hlo, hhi⟩ => ?_, fun ⟨hlo, hhi⟩ => ?_, fun ⟨hlo, hhi⟩ => ?_⟩
  · obtain ⟨u, hu⟩ := execAll_of_data_changed hf hfpv hname hb hne hraw hdata hrsrc hlo hhi
    cases ht.symm.trans hu
    exact ⟨rfl, rfl⟩
  · obtain ⟨u, hu⟩ := execAll_of_rsrc_changed hf hfpv hname hb hne hraw hdata hrsrc hlo hhi
    cases ht.symm.trans hu
    exact ⟨rfl, rfl⟩
  · obtain ⟨c, u, hc, hu⟩ := execAll_of_header_changed hf hfpv hname hb hne hraw hlo hhi
    cases ht.symm.trans hu
    exact ⟨rfl, hc.imp (congrArg Cause.code) (congrArg Cause.code)⟩

/-- Settles O54: the hypotheses say that the buffer is `Announced`. -/
theorem fpParseFillsTheView : Obligations.FpParseFillsTheView := by
  unfold Obligations.FpParseFillsTheView
  rintro s n tail l d r p hf hfpv hraw rfl hheader rfl rfl hdata rfl hrsrc
  exact ⟨rfl, exec_fpParse_of_some hf hfpv (parseView_of_announced hraw ⟨hheader, hdata, hrsrc⟩)⟩

/-- Settles O55: an empty buffer has no view, and neither has one that is not `Announced`. -/
theorem fpParseRejectsTruncation : Obligations.FpParseRejectsTruncation := by
  unfold Obligations.FpParseRejectsTruncation
  intro s hf hfpv hcase
  suffices hnone : parseView s.raw = none by rw [exec_fpParse_of_none hf hfpv hnone, raise_eq]; rfl
  rcases hcase with hempty | ⟨n, tail, hraw, hshort | ⟨_, rfl, -, hdata | hrsrc⟩⟩
  · rw [hempty]; rfl
  · exact parseView_of_short hraw hshort
  · exact parseView_of_not_announced hraw fun h => not_le.mpr hdata h.data
  · exact parseView_of_not_announced hraw fun h => not_le.mpr hrsrc h.rsrc

/-- Settles O56. -/
theorem vfRunPassesAVerifiedFrame : Obligations.VfRunPassesAVerifiedFrame := by
  unfold Obligations.VfRunPassesAVerifiedFrame
  intro s hf hfpv hv hh hd hr
  exact ⟨rfl, (exec_vfRun hf hfpv hv).trans (congrArg Host.Outcome.next (verifyView_of_verifies hh hd hr))⟩

/-- Settles O57: one outcome of `verifyView` for each section; `raise_eq` writes out fault entry. -/
theorem vfRunReportsTheFirstMismatch : Obligations.VfRunReportsTheFirstMismatch := by
  unfold Obligations.VfRunReportsTheFirstMismatch
  rintro s hdr data rsrc sec code hf hfpv hv rfl rfl rfl hcase
  rw [exec_vfRun hf hfpv hv]
  rcases hcase with ⟨hh, rfl, rfl⟩ | ⟨hh, hlen, hd, rfl, rfl⟩ | ⟨hh, hd, hlen, hr, rfl, rfl⟩
  · rw [verifyView_of_header_mismatch hh, raise_eq]; rfl
  · rw [verifyView_of_data_mismatch hh hlen hd, raise_eq]; rfl
  · rw [verifyView_of_rsrc_mismatch hh hd hlen hr, raise_eq]; rfl

end Sys2Proof.Machine

/-! PROOFS. Whole messages (rules R231 to R235 of `49_pipelines.md`). ENCODE is followed through the linked units: the
configuration gives the registers `configRegs`, the frame of R204 goes through the RLE encoder as `encodedBytes` and
through the packer as the wrapped symbols of these. DECODE takes the same way back: the unpacker gives the encoded
bytes, the RLE decoder the frame, and a frame parses to its own fields and verifies. -/

namespace Sys2Proof.Machine

/-! ### Configuration (R194 to R200, R231) -/

/-- The operations `is`, issued in phase `CFG`, update the frame assembler's registers and nothing else, and stay in the
phase. -/
structure Configures (is : List Instr) (update : FaRegs → FaRegs) : Prop where
  execAll : ∀ {s : State}, s.st.fault = false → s.fa.ph = .cfg → execAll is s = .next (s.setFa (update s.fa))
  phase : ∀ f : FaRegs, (update f).ph = f.ph

namespace Configures

theorem nil : Configures [] id := ⟨fun _ _ => rfl, fun _ => rfl⟩

theorem append {is js : List Instr} {update update' : FaRegs → FaRegs} (h : Configures is update)
    (h' : Configures js update') : Configures (is ++ js) fun f => update' (update f) where
  execAll {s} hf hph := by
    have hnext := h'.execAll (s := s.setFa (update s.fa)) hf ((h.phase s.fa).trans hph)
    rw [execAll_append (h.execAll hf hph), hnext]
    rfl
  phase f := (h'.phase _).trans (h.phase f)

/-- One configuration operation. -/
theorem single {i : Instr} {update : FaRegs → FaRegs} (hi : ∀ s, exec i s = issue s fun s => faConfigure s update)
    (hph : ∀ f : FaRegs, (update f).ph = f.ph) : Configures [i] update where
  execAll {s} hf hcfg := by rw [execAll_cons ((hi s).trans (issue_faConfigure hf hcfg update)), execAll_nil]
  phase := hph

/-- The operation of an optional argument: one that is left out keeps the register's value. -/
theorem option {α : Type} {op : α → Instr} {update : α → FaRegs → FaRegs} {get : FaRegs → α}
    (h : ∀ v, Configures [op v] (update v)) (hget : ∀ f, update (get f) f = f) (o : Option α) :
    Configures (o.map op).toList fun f => update (o.getD (get f)) f := by
  cases o with
  | none => exact (funext hget : (fun f => update (get f) f) = id) ▸ nil
  | some v => exact h v

end Configures

/-- The registers after `FA.NAME`, if it is issued. -/
def nameRegs (name : Option (List Byte)) (f : FaRegs) : FaRegs :=
  name.elim f fun x => x.foldl (fun f b => faNamePush b f) { f with nlen := 0#9 }

theorem configures_faNpush (x : List Byte) :
    Configures (x.map .faNpush) fun f => x.foldl (fun f b => faNamePush b f) f := by
  induction x with
  | nil => exact .nil
  | cons b x ih =>
    have hb : Configures [.faNpush b] (faNamePush b) :=
      .single (fun _ => rfl) fun f => by rw [faNamePush_frame]
    exact hb.append ih

theorem configures_faName (name : Option (List Byte)) : Configures ((name.map faName).getD []) (nameRegs name) := by
  cases name with
  | none => exact .nil
  | some x =>
    have hclear : Configures [.faNclr] fun f => { f with nlen := 0#9 } := .single (fun _ => rfl) fun _ => rfl
    exact hclear.append (configures_faNpush x)

/-- The registers after the configuration of ENCODE (R231). -/
def configRegs (a : EncodeArgs) (f : FaRegs) : FaRegs :=
  { nameRegs a.name f with
    type := a.type.getD (nameRegs a.name f).type, auth := a.auth.getD (nameRegs a.name f).auth,
    flags := a.flags.getD (nameRegs a.name f).flags,
    dlen := BitVec.ofNat 64 a.data.length, rlen := BitVec.ofNat 64 a.rsrc.length }

/-- The operations of ENCODE that configure the frame assembler (R231). -/
def configSequence (a : EncodeArgs) : List Instr :=
  configOps a ++ [.faDlen (BitVec.ofNat 64 a.data.length)] ++ [.faRlen (BitVec.ofNat 64 a.rsrc.length)]

theorem configures_configSequence (a : EncodeArgs) : Configures (configSequence a) (configRegs a) := by
  have hname := configures_faName a.name
  have htype := Configures.option (op := .faType) (update := fun v f => { f with type := v }) (get := FaRegs.type)
    (fun _ => .single (fun _ => rfl) fun _ => rfl) (fun _ => rfl) a.type
  have hauth := Configures.option (op := .faAuth) (update := fun v f => { f with auth := v }) (get := FaRegs.auth)
    (fun _ => .single (fun _ => rfl) fun _ => rfl) (fun _ => rfl) a.auth
  have hflags := Configures.option (op := .faFlags) (update := fun v f => { f with flags := v }) (get := FaRegs.flags)
    (fun _ => .single (fun _ => rfl) fun _ => rfl) (fun _ => rfl) a.flags
  have hdlen : Configures [.faDlen (BitVec.ofNat 64 a.data.length)]
      fun f => { f with dlen := BitVec.ofNat 64 a.data.length } := .single (fun _ => rfl) fun _ => rfl
  have hrlen : Configures [.faRlen (BitVec.ofNat 64 a.rsrc.length)]
      fun f => { f with rlen := BitVec.ofNat 64 a.rsrc.length } := .single (fun _ => rfl) fun _ => rfl
  exact ((((hname.append htype).append hauth).append hflags).append hdlen).append hrlen

/-- A name byte goes behind the name so far (R195). -/
theorem take_name_faNamePush {f : FaRegs} (h : f.nlen.toNat < 255) (b : Byte) :
    (faNamePush b f).nlen.toNat = f.nlen.toNat + 1 ∧
      (faNamePush b f).name.toList.take (f.nlen.toNat + 1) = f.name.toList.take f.nlen.toNat ++ [b] := by
  rw [faNamePush_of_lt h]
  have hin : f.nlen.toNat < f.name.toList.length := by rw [Vector.length_toList]; exact h
  refine ⟨by bv_omega, ?_⟩
  rw [Vector.toList_setIfInBounds, List.take_add_one, List.take_set_of_le le_rfl, List.getElem?_set_self hin,
    Option.toList_some]

/-- `FA.NPUSH` of bytes that fit: they stand behind the name so far, and only the name and its count change. -/
theorem foldl_faNamePush {x : List Byte} {f : FaRegs} (h : f.nlen.toNat + x.length ≤ 255) :
    ∃ name nlen, x.foldl (fun f b => faNamePush b f) f = { f with name := name, nlen := nlen } ∧
      nlen.toNat = f.nlen.toNat + x.length ∧ name.toList.take nlen.toNat = f.name.toList.take f.nlen.toNat ++ x := by
  induction x generalizing f with
  | nil => exact ⟨f.name, f.nlen, rfl, rfl, (List.append_nil _).symm⟩
  | cons b x ih =>
    rw [List.length_cons] at h
    obtain ⟨hcount, htake⟩ := take_name_faNamePush (f := f) (by omega) b
    obtain ⟨name, nlen, hfold, hnlen, hname⟩ := ih (f := faNamePush b f) (by omega)
    rw [hcount, htake, List.append_assoc] at hname
    refine ⟨name, nlen, ?_, by rw [hnlen, hcount, List.length_cons]; omega, hname⟩
    rw [List.foldl_cons, hfold, faNamePush_frame]

/-- What the frame is made of after the configuration of ENCODE: the arguments, or their defaults (R29, R231). -/
structure ConfiguredFor (f : FaRegs) (a : EncodeArgs) (name : List Byte) : Prop where
  phase : f.ph = .cfg
  nlen : f.nlen.toNat = name.length
  name : f.name.toList.take f.nlen.toNat = name
  type : f.type = a.type.getD 0#32
  auth : f.auth = a.auth.getD 0#32
  flags : f.flags = a.flags.getD 0#16
  dlen : f.dlen = BitVec.ofNat 64 a.data.length
  rlen : f.rlen = BitVec.ofNat 64 a.rsrc.length

theorem nameRegs_reset {o : Option (List Byte)} (h : (o.getD defaultName).length ≤ 255) :
    ∃ name nlen, nameRegs o FaRegs.reset = { FaRegs.reset with name := name, nlen := nlen } ∧
      nlen.toNat = (o.getD defaultName).length ∧ name.toList.take nlen.toNat = o.getD defaultName := by
  cases o with
  | none => exact ⟨NameBuffer.reset, 12#9, rfl, rfl, rfl⟩
  | some x =>
    obtain ⟨name, nlen, hfold, hnlen, hname⟩ := foldl_faNamePush (x := x) (f := { FaRegs.reset with nlen := 0#9 })
      ((Nat.zero_add _).trans_le h)
    exact ⟨name, nlen, hfold, hnlen.trans (Nat.zero_add _), hname⟩

theorem configuredFor_configRegs {a : EncodeArgs} (h : (a.name.getD defaultName).length ≤ 255) :
    ConfiguredFor (configRegs a FaRegs.reset) a (a.name.getD defaultName) := by
  obtain ⟨name, nlen, hregs, hnlen, hname⟩ := nameRegs_reset h
  rw [configRegs, hregs]
  exact ⟨rfl, hnlen, hname, rfl, rfl, rfl, rfl, rfl⟩

/-! ### The encode path with both links (R62, R63, R184, R231) -/

/-- What the RLE encoder makes of `x` when the pending run is emitted at the end. -/
def encodedBytes (m : Nat) (x : List Byte) : List Byte :=
  (reBytesOut m ReRegs.reset x).2 ++ drainBytes m (reBytesOut m ReRegs.reset x).1

theorem expandsTo_encodedBytes {m : Nat} (hm : 2 ≤ m) (x : List Byte) : ExpandsTo (encodedBytes m x) x :=
  expandsTo_reBytesOut hm x ReRegs.reset

theorem deliverRe_of_link {s : State} (h : s.ctl.lRePk = true) (bytes : List Byte) :
    deliverRe s bytes = (s.setPk (pkBytesOut s.pk bytes).1).setTxt (s.txt ++ (pkBytesOut s.pk bytes).2) := by
  rw [deliverRe_eq, if_pos h]

/-- `s` after the packer has taken the bytes `e`, with the registers of the RLE encoder, `CRC.R` and `FA.*` written. -/
def packedState (s : State) (e : List Byte) (q : ReRegs) (r : CrcWord) (f : FaRegs) : State :=
  ((((s.setPk (pkBytesOut s.pk e).1).setTxt (s.txt ++ (pkBytesOut s.pk e).2)).setRe q).setCrc r).setFa f

section
variable {s : State} (hf : s.st.fault = false) (hre : s.re = ReRegs.reset) (hpk : s.pk = PkRegs.reset)
variable (hlinkRe : s.ctl.lFaRe = true) (hlinkPk : s.ctl.lRePk = true)

include hlinkPk in
theorem deliverRe_packedState (e e' : List Byte) (q : ReRegs) (r : CrcWord) (f : FaRegs) :
    deliverRe (packedState s e q r f) e' = packedState s (e ++ e') q r f := by
  rw [deliverRe_of_link (by exact hlinkPk)]
  simp only [packedState, pkBytesOut_append, ← List.append_assoc]
  rfl

include hre hlinkRe hlinkPk in
/-- Assembled bytes reach the packer through both links. -/
theorem assembled_of_links (x : List Byte) (r : CrcWord) (f : FaRegs) :
    assembled s x r f =
      packedState s (reBytesOut s.params.reMinRun ReRegs.reset x).2 (reBytesOut s.params.reMinRun ReRegs.reset x).1 r
        f := by
  rw [assembled, deliverFa_eq, if_pos hlinkRe, deliverRe_of_link hlinkPk, hre]
  rfl

include hf hre hlinkRe hlinkPk in
/-- `RE.END` after a frame: the packer has taken all of its encoded bytes. -/
theorem exec_reEnd_assembled (x : List Byte) (r : CrcWord) (f : FaRegs) :
    exec .reEnd (assembled s x r f) =
      .next (packedState s (encodedBytes s.params.reMinRun x) ReRegs.reset r f) := by
  rw [exec_reEnd (by rw [assembled_st, hf]), assembled_of_links hre hlinkRe hlinkPk, deliverRe_packedState hlinkPk]
  rfl

include hf hpk in
/-- `PK.END` after bytes packed on an empty line: their symbols, wrapped, and the closing colon (R151). -/
theorem exec_pkEnd_packedState (e : List Byte) (q : ReRegs) (r : CrcWord) (f : FaRegs) :
    ∃ t, exec .pkEnd (packedState s e q r f) = .next t ∧ t.st.fault = false ∧ t.fa = f ∧
      t.txt = s.txt ++ (wrapSymbols 0 (packedSymbols s.params.pkFlush e)).1 ++
        [Config.colon, Config.cr, Config.lf] := by
  have htext : (packOut s.params.pkFlush s.pk e).2 = (wrapSymbols 0 (packedSymbols s.params.pkFlush e)).1 := by
    rw [hpk, packOut_eq_lineOut _ e PkRegs.reset (by decide) rfl]
    rfl
  refine ⟨_, exec_pkEnd (by exact hf), ?_⟩
  rw [← htext, packOut, ← List.append_assoc, pkFlush_eq]
  exact ⟨hf, rfl, rfl⟩

end

/-! ### The decode path with its link (R64, R162, R172, R232) -/

/-- `u` with the registers of the RLE decoder and of the unpacker and the stream `RAW` written. -/
def expandedState (u : State) (d : RdRegs) (raw : List Byte) (p : UpRegs) : State :=
  { u with rd := d, raw := raw, up := p }

theorem expandedState_expandedState (u : State) (d d' : RdRegs) (raw raw' : List Byte) (p p' : UpRegs) :
    expandedState (expandedState u d raw p) d' raw' p' = expandedState u d' raw' p' := rfl

section
variable (u : State) (d : RdRegs) (raw : List Byte) (p : UpRegs)
@[simp] theorem expandedState_rd : (expandedState u d raw p).rd = d := rfl
@[simp] theorem expandedState_raw : (expandedState u d raw p).raw = raw := rfl
@[simp] theorem expandedState_up : (expandedState u d raw p).up = p := rfl
end

theorem upSym_of_link {u : State} (hlink : u.ctl.lUpRd = true) (y : Symbol) :
    upSym u y = expandedState u (rdBytesOut u.rd (upSymOut u.up y).2).1
      (u.raw ++ (rdBytesOut u.rd (upSymOut u.up y).2).2) (upSymOut u.up y).1 := by
  rw [upSym_eq, deliverUp_eq, if_pos hlink]
  rfl

/-- Symbols through the unpacker with the link to the RLE decoder: their bytes are expanded into `RAW`. -/
theorem foldl_upSym_of_link {u : State} (hlink : u.ctl.lUpRd = true) (ys : List Symbol) :
    ys.foldl upSym u = expandedState u (rdBytesOut u.rd (upSymsOut u.up ys).2).1
      (u.raw ++ (rdBytesOut u.rd (upSymsOut u.up ys).2).2) (upSymsOut u.up ys).1 := by
  induction ys generalizing u with
  | nil => simp [upSymsOut, rdBytesOut, expandedState]
  | cons y ys ih =>
    rw [List.foldl_cons, upSym_of_link hlink, ih (by exact hlink), expandedState_expandedState]
    simp only [upSymsOut, rdBytesOut_append, expandedState_rd, expandedState_raw, expandedState_up, List.append_assoc]

theorem colon_not_mem_wrapSymbols (col : Nat) (ys : List Symbol) : Config.colon ∉ (wrapSymbols col ys).1 := by
  intro h
  rcases mem_wrapSymbols h with hcr | hlf | ⟨y, hy⟩
  · exact absurd hcr (by decide)
  · exact absurd hlf (by decide)
  · have hsym := classify_alpha y
    rw [hy, show classify Config.colon = .invalid by decide] at hsym
    cases hsym

/-- DECODE before `FP.PARSE` (R232). -/
def decodePrefix (payload : List Byte) : List Instr := [.coreRst, linkDec] ++ upStr payload ++ [.upEnd, .rdEnd]

/-- DECODE up to `RD.END`, on the text of bytes that expand to `x`: `RAW` is `x`, and no fault is raised. -/
theorem execAll_decode_of_expandsTo {e x : List Byte} (h : ExpandsTo e x) (u : State) :
    ∃ w, execAll (decodePrefix (wrapSymbols 0 (packedSymbols .zeroPad e)).1) u = .next w ∧ w.st.fault = false ∧
      w.params = u.params ∧ w.raw = x := by
  obtain ⟨l, hl⟩ := h.decodes 0x00#8
  have hreset : exec .coreRst u = .next (coreReset u) := rfl
  have hlink : exec linkDec (coreReset u) = .next ((coreReset u).setCtl ⟨false, false, true⟩) := exec_ctlWr rfl _
  have hlinked := (execAll_cons hreset [linkDec]).trans (execAll_cons hlink [])
  have hunpacked : (upSymsOut UpRegs.reset (packedSymbols .zeroPad e)).2 = e :=
    (upSymsOut_packedSymbols .zeroPad e).trans (if_pos (.inl rfl))
  have hsyms := execAll_upStr_wrapSymbols (s := (coreReset u).setCtl ⟨false, false, true⟩) rfl 0
    (packedSymbols .zeroPad e)
  rw [foldl_upSym_of_link rfl, State.setCtl_up, State.setCtl_rd, State.setCtl_raw, coreReset_up, coreReset_rd,
    show State.reset.up = UpRegs.reset from rfl, show State.reset.rd = ⟨false, 0x00#8⟩ from rfl, hunpacked, hl] at hsyms
  have htext := (execAll_append hlinked _).trans hsyms
  rw [decodePrefix, execAll_append htext]
  exact ⟨_, (execAll_cons (exec_upEnd rfl) _).trans (execAll_cons (exec_rdEnd_of_no_marker rfl rfl) []), rfl, rfl, rfl⟩

/-! ### The sequences (R231, R232) -/

theorem encodeSequence_eq (a : EncodeArgs) :
    encodeSequence a =
      [.coreRst, linkEnc] ++ configSequence a ++ [.pkBegin] ++ (.faHdr :: faStr (a.data ++ a.rsrc)) ++ [.reEnd] ++
        [.pkEnd] := by
  simp [encodeSequence, configSequence, faStr]

theorem decodeSequence_eq (payload : List Byte) :
    decodeSequence payload true = decodePrefix payload ++ [.fpParse] ++ [.vfRun] := by
  simp [decodeSequence, decodePrefix]

/-- The state in which ENCODE issues `FA.HDR` (R231). -/
def headerReady (a : EncodeArgs) (s : State) : State :=
  (((coreReset s).setCtl ⟨true, true, false⟩).setFa (configRegs a FaRegs.reset)).setTxt (fileMarker ++ [Config.colon])

@[simp] theorem headerReady_fa (a : EncodeArgs) (s : State) : (headerReady a s).fa = configRegs a FaRegs.reset := rfl

/-- The frame that ENCODE is asked for, the arguments left out at their defaults (R191, R231). -/
def requestedFrame (a : EncodeArgs) : List Byte :=
  frame (a.name.getD defaultName) (a.type.getD 0#32) (a.auth.getD 0#32) (a.flags.getD 0#16) a.data a.rsrc

/-- `FA.HDR` and `FA.STR` of both forks (R204), as bytes assembled. -/
theorem execAll_faHdr_faStr {s : State} {data rsrc : List Byte} (hf : s.st.fault = false) (hph : s.fa.ph = .cfg)
    (hn : s.fa.nlen.toNat ≤ 255) (hdlen : s.fa.dlen.toNat = data.length) (hrlen : s.fa.rlen.toNat = rsrc.length)
    (hdata : data.length ≤ 0xFFFFFFFF) (hrsrc : rsrc.length ≤ 0xFFFFFFFF) :
    execAll (.faHdr :: faStr (data ++ rsrc)) s =
      .next (assembled s (frame (s.fa.name.toList.take s.fa.nlen.toNat) s.fa.type s.fa.auth s.fa.flags data rsrc)
        (if rsrc = [] then 0x0000#16 else storedCrc rsrc) { s.fa with ph := .done, rem := 0#32 }) :=
  (frameIsAssembled s data rsrc hf hph hn hdlen hrlen hdata hrsrc).1

theorem execAll_headerReady (a : EncodeArgs) (s : State) :
    execAll ([.coreRst, linkEnc] ++ configSequence a ++ [.pkBegin]) s = .next (headerReady a s) := by
  have hreset : exec .coreRst s = .next (coreReset s) := rfl
  have hlink : exec linkEnc (coreReset s) = .next ((coreReset s).setCtl ⟨true, true, false⟩) := exec_ctlWr rfl _
  have hconfig := (configures_configSequence a).execAll (s := (coreReset s).setCtl ⟨true, true, false⟩) rfl rfl
  have hlinked := (execAll_cons hreset [linkEnc]).trans (execAll_cons hlink [])
  exact (execAll_append ((execAll_append hlinked _).trans hconfig) _).trans (execAll_cons (exec_pkBegin rfl) [])

section
variable {a : EncodeArgs} (hname : (a.name.getD defaultName).length ≤ 255) (hdata : a.data.length ≤ 0xFFFFFFFF)
variable (hrsrc : a.rsrc.length ≤ 0xFFFFFFFF) (s : State)
include hname hdata hrsrc

/-- The requested frame is assembled, behind the links (R204). -/
theorem execAll_frame_headerReady :
    ∃ r f, f.ph = .done ∧ execAll (.faHdr :: faStr (a.data ++ a.rsrc)) (headerReady a s) =
      .next (assembled (headerReady a s) (requestedFrame a) r f) := by
  obtain ⟨hph, hnlen, htake, htype, hauth, hflags, hdlen, hrlen⟩ := headerReady_fa a s ▸ configuredFor_configRegs hname
  have hframe := execAll_faHdr_faStr (s := headerReady a s) rfl hph (hnlen.trans_le hname)
    ((congrArg BitVec.toNat hdlen).trans (toNat_ofNat_length (by omega)))
    ((congrArg BitVec.toNat hrlen).trans (toNat_ofNat_length (by omega))) hdata hrsrc
  rw [htake, htype, hauth, hflags] at hframe
  exact ⟨_, _, rfl, hframe⟩

/-- ENCODE completes, with the packed symbols of the frame's encoded bytes between the colons (R231, R234). -/
theorem encode_completes :
    ∃ t, s.EncodeComplete (encodeSequence a) t ∧
      t.txt = fileMarker ++ [Config.colon] ++
        (wrapSymbols 0 (packedSymbols s.params.pkFlush (encodedBytes s.params.reMinRun (requestedFrame a)))).1 ++
        [Config.colon, Config.cr, Config.lf] := by
  obtain ⟨r, f, hdone, hframe⟩ := execAll_frame_headerReady hname hdata hrsrc s
  have hreEnd := exec_reEnd_assembled (s := headerReady a s) rfl rfl rfl rfl (requestedFrame a) r f
  obtain ⟨t, hpkEnd, hrun, hfa, htxt⟩ := exec_pkEnd_packedState (s := headerReady a s) rfl rfl
    (encodedBytes s.params.reMinRun (requestedFrame a)) ReRegs.reset r f
  have hassembled := (execAll_append (execAll_headerReady a s) _).trans hframe
  have hbefore := (execAll_append hassembled [.reEnd]).trans (execAll_cons hreEnd [])
  have hall := (execAll_append hbefore [.pkEnd]).trans (execAll_cons hpkEnd [])
  rw [encodeSequence_eq]
  exact ⟨t, ⟨hall, hrun, State.hasExecuted_last hbefore rfl hpkEnd hrun (by rw [hfa, hdone])⟩, htxt⟩

end

/-- DECODE is complete when `FP.PARSE` and `VF.RUN` have executed without a fault (R234). -/
theorem decodeComplete_of_verified {payload : List Byte} {u d p w : State}
    (hd : execAll (decodePrefix payload) u = .next d) (hdrun : d.st.fault = false)
    (hparse : exec .fpParse d = .next p) (hprun : p.st.fault = false)
    (hverify : exec .vfRun p = .next w) (hwrun : w.st.fault = false) :
    u.DecodeComplete true (decodeSequence payload true) w := by
  have hparsed := (execAll_append hd [.fpParse]).trans (execAll_cons hparse [])
  have hall := (execAll_append hparsed [.vfRun]).trans (execAll_cons hverify [])
  rw [decodeSequence_eq]
  exact ⟨hall, hwrun, (State.hasExecuted_last hd hdrun hparse hprun trivial).append (by decide),
    fun _ => State.hasExecuted_last hparsed hprun hverify hwrun trivial⟩

/-- DECODE of the wrapped symbols of bytes that expand to a frame completes, with the frame in `RAW` and its fields in
the view (R232, R234). -/
theorem decode_completes {name data rsrc e : List Byte} {type auth : BitVec 32} {flags : BitVec 16}
    (hname : name.length ≤ 255) (hdata : data.length ≤ 0xFFFFFFFF) (hrsrc : rsrc.length ≤ 0xFFFFFFFF)
    (h : ExpandsTo e (frame name type auth flags data rsrc)) {u : State} (hfpv : u.params.hasFpv = true) :
    ∃ w, u.DecodeComplete true (decodeSequence (wrapSymbols 0 (packedSymbols .zeroPad e)).1 true) w ∧
      w.raw = frame name type auth flags data rsrc ∧
      viewName w.v w.raw = name ∧ w.v.type = type ∧ w.v.auth = auth ∧ w.v.flags = flags ∧
      w.v.dlen.toNat = data.length ∧ viewData w.v w.raw = data ∧ w.v.rlen.toNat = rsrc.length ∧
      viewRsrc w.v w.raw = rsrc ∧ w.v.dcrcp = true ∧ w.v.rcrcp = true := by
  obtain ⟨d, hd, hrun, hparams, hraw⟩ := execAll_decode_of_expandsTo h u
  have hsections := hraw.trans (frame_eq_sections ..)
  rw [← List.append_nil (sections ..)] at hsections
  have hfpvd : d.params.hasFpv = true := by rw [hparams, hfpv]
  have hparse := exec_fpParse_of_some hrun hfpvd (parseView_sections hsections hname hdata hrsrc)
  obtain ⟨r, hverify⟩ := exec_vfRun_sections hrun hfpvd hname hdata hrsrc hsections rfl rfl
  exact ⟨_, decodeComplete_of_verified hd hrun hparse hrun hverify hrun, hraw, viewName_sections hsections hname, rfl,
    rfl, rfl, toNat_ofNat_length (by omega), viewData_sections hsections hdata, toNat_ofNat_length (by omega),
    viewRsrc_sections hsections hrsrc, rfl, rfl⟩

/-! ### The obligation -/

/-- Settles O60: the encoded bytes expand to the frame, the unpacker gives them back (`ZERO_PAD`), and the frame's view
holds its fields. -/
theorem decodeRecoversWhatEncodeWrote : Obligations.DecodeRecoversWhatEncodeWrote := by
  unfold Obligations.DecodeRecoversWhatEncodeWrote
  rintro a s name hwf hpad rfl hname hdata hrsrc
  obtain ⟨t, hcomplete, htxt⟩ := encode_completes hname hdata hrsrc s
  have hexpands := expandsTo_encodedBytes (two_le_reMinRun hwf) (requestedFrame a)
  refine ⟨t, _, hcomplete.1, hcomplete, htxt, colon_not_mem_wrapSymbols _ _, fun u hfpv => ?_⟩
  obtain ⟨w, hw, hfields⟩ := decode_completes hname hdata hrsrc hexpands hfpv
  rw [hpad]
  exact ⟨w, hw.1, hw, hfields⟩

end Sys2Proof.Machine
